-- ==== Sys2Proof/Word.lean ====
section
/-! DEFINITION. The word types of the block (spec 00_scope R10, 10_state R22, 30_encoding R80). -/

namespace Sys2Proof

/-- A byte, 8 bits (R10). -/
abbrev Byte := BitVec 8

/-- A 16-bit value: host data, a sum, a CRC, a length field (R10, R65). -/
abbrev Half := BitVec 16

/-- A register number of the host register map, 12 bits (R40). -/
abbrev RegNum := BitVec 12

/-- An event word, 32 bits (R80). -/
abbrev EventWord := BitVec 32

end Sys2Proof
end

