-- ==== Sys2Proof/Config.lean ====
section
/-! DEFINITION. The configuration parameters of an instance (R8) and the constants of the block (R7, R9). -/

namespace Sys2Proof

/-- The parameters fixed when the block is built (R8, U16); no event writes them. -/
structure Config where
  /-- `DEV_ADDR`, the one device address MFC speaks to. -/
  devAddr : Byte
  /-- `RF_A`, the first of the two supported read codes. -/
  rfA : Byte
  /-- `RF_B`, the second of the two supported read codes. -/
  rfB : Byte
  /-- `WF`, the "write single register" code. -/
  wf : Byte
  deriving DecidableEq, Repr

/-- The defaults of R8. -/
def Config.default : Config := { devAddr := 0xFE, rfA := 0x03, rfB := 0x04, wf := 0x06 }

/-- R8: `RF_A`, `RF_B` and `WF` are pairwise distinct. -/
def Config.Distinct (c : Config) : Prop := c.rfA ≠ c.rfB ∧ c.rfA ≠ c.wf ∧ c.rfB ≠ c.wf

/-- First header sentinel of a telemetry frame (R7). -/
abbrev HDR0 : Byte := 0x42
/-- Second header sentinel (R7). -/
abbrev HDR1 : Byte := 0x4D
/-- First admissible value of the telemetry length field (R7, R91). -/
abbrev LEN_A : Nat := 20
/-- Second admissible value of the telemetry length field (R7, R91). -/
abbrev LEN_B : Nat := 28
/-- Bytes in an encoded Modbus request (R7). -/
abbrev REQ_LEN : Nat := 8
/-- The reflected CRC-16 polynomial (R7). -/
abbrev CRC_POLY : Half := 0xA001
/-- Response bytes that are not data (R7). -/
abbrev RSP_OVERHEAD : Nat := 5
/-- Bytes in PAY and in FRM_DATA (R9). -/
abbrev PAY_CAP : Nat := 26
/-- Bytes in TXBUF (R9). -/
abbrev TX_CAP : Nat := 8
/-- Bytes in RXBUF (R9). -/
abbrev MB_CAP : Nat := 260
/-- CRC16 start value (R9). -/
abbrev CRC_INIT : Half := 0xFFFF
/-- Saturation value of the discard counter (R9). -/
abbrev DISC_MAX : Half := 0xFFFF

end Sys2Proof
end

