-- ==== Sys2Proof/Syntax.lean ====
section
/-! DEFINITION. The events, commands and wire frame kinds of spec/opcode_table.json, one constructor each (R5, R81, R84,
R90, R93), and the items a run is written in (R80). -/

namespace Sys2Proof

/-- What the block can be given, one constructor per row of the opcode table. -/
inductive Instr where
  /-- `RESET`, format Z (R81, R200). -/
  | reset
  /-- `RX b`, format B: one received byte (R81, R142, R178). -/
  | rx (b : Byte)
  /-- `WR r v`, format W: a host write (R81, R201). -/
  | wr (r : RegNum) (v : Half)
  /-- `RD r`, format R: a host read (R81, R202). -/
  | rd (r : RegNum)
  /-- `CMD NOP` (R206). -/
  | cmdNop
  /-- `CMD SYNC_CLR` (R151). -/
  | cmdSyncClr
  /-- `CMD FRM_ACK` (R152). -/
  | cmdFrmAck
  /-- `CMD DIAG_CLR` (R207). -/
  | cmdDiagClr
  /-- `CMD FLAG_CLR` (R208). -/
  | cmdFlagClr
  /-- `CMD MB_ENCODE` (R170). -/
  | cmdMbEncode
  /-- `CMD MB_ARM` (R176). -/
  | cmdMbArm
  /-- `CMD MB_ABORT` (R184). -/
  | cmdMbAbort
  /-- Telemetry frame with length field 20: 18 payload bytes and the checksum as received (R90, R91). -/
  | tframe20 (payload : List Byte) (checksum : Half)
  /-- Telemetry frame with length field 28: 26 payload bytes and the checksum as received (R90, R91). -/
  | tframe28 (payload : List Byte) (checksum : Half)
  /-- Modbus request "read N registers" with function code `RF_A` (R93, R94). -/
  | mbreqReadA (reg count crc : Half)
  /-- Modbus request "read N registers" with function code `RF_B` (R93, R94). -/
  | mbreqReadB (reg count crc : Half)
  /-- Modbus request "write single register" with function code `WF` (R93, R94). -/
  | mbreqWrite (reg value crc : Half)
  deriving DecidableEq, Repr

/-- One item of a run as written down: an event word (R80), or a whole wire frame, its bytes in wire order (R108). -/
inductive Token where
  | word (w : EventWord)
  | frame (bytes : List Byte)
  deriving DecidableEq, Repr

end Sys2Proof
end

