-- ==== Sys2Proof/Machine/Bytes.lean ====
section
/-! DEFINITION. Byte and bit helpers: halves of a 16-bit value, concatenation, zero extension (R10). -/

namespace Sys2Proof

/-- `hi8(v) = v[15:8]` (R10). -/
def hi8 (v : Half) : Byte := v.extractLsb' 8 8

/-- `lo8(v) = v[7:0]` (R10). -/
def lo8 (v : Half) : Byte := v.extractLsb' 0 8

/-- `{h, l}`: `h` in the high bits (R10). -/
def cat16 (h l : Byte) : Half := h ++ l

/-- `zext_16(b)` (R10). -/
def zext16 (b : Byte) : Half := b.setWidth 16

/-- The `k` bytes of a number, least significant first. -/
def bytesOfNat (k w : Nat) : List Byte := (List.range k).map fun i => BitVec.ofNat 8 (w >>> (8 * i))

end Sys2Proof
end

