-- ==== Sys2Proof/WellFormed.lean ====
section
/-! DEFINITION. Which terms of Instr are instructions: those some item of a run spells (R81, R84, R91, R108). -/

namespace Sys2Proof

/-- The eight opcodes of R84. -/
def commandOpcodes : List Half := [0x0000, 0x0001, 0x0002, 0x0003, 0x0004, 0x0010, 0x0011, 0x0012]

/-- A `WR` to CMD whose data is one of the eight opcodes is the command itself: its word decodes to the command's row,
the more specific one (R108).  A telemetry frame carries `len − 2` payload bytes (R91). -/
def Instr.wellFormed : Instr → Bool
  | .wr r v => !(r == 0x001 && commandOpcodes.contains v)
  | .tframe20 p _ => p.length == LEN_A - 2
  | .tframe28 p _ => p.length == LEN_B - 2
  | .reset | .rx _ | .rd _ => true
  | .cmdNop | .cmdSyncClr | .cmdFrmAck | .cmdDiagClr | .cmdFlagClr => true
  | .cmdMbEncode | .cmdMbArm | .cmdMbAbort => true
  | .mbreqReadA _ _ _ | .mbreqReadB _ _ _ | .mbreqWrite _ _ _ => true

end Sys2Proof
end

