-- ==== Sys2Proof/Decode.lean ====
section
/-! DEFINITION. The decoder of event words and wire frames (R80 to R84, R90 to R94, R108), total and rejecting by name, and
after it the encoder. -/

namespace Sys2Proof

/-- Why an item of a run spells no instruction. -/
inductive DecodeError where
  /-- R82: KIND in `0x4 .. 0xF`, or a non-zero bit in a "must be 0" field. -/
  | reservedEventWord
  /-- A byte string that is none of the five wire frame kinds of R108. -/
  | notAWireFrame
  deriving DecidableEq, Repr

/-- The command with opcode `v`, where there is one (R84, R205). -/
def commandOf (v : Half) : Option Instr :=
  if v = 0x0000 then some .cmdNop
  else if v = 0x0001 then some .cmdSyncClr
  else if v = 0x0002 then some .cmdFrmAck
  else if v = 0x0003 then some .cmdDiagClr
  else if v = 0x0004 then some .cmdFlagClr
  else if v = 0x0010 then some .cmdMbEncode
  else if v = 0x0011 then some .cmdMbArm
  else if v = 0x0012 then some .cmdMbAbort
  else none

/-- Format W: the eight command rows are more specific than the row WR and take precedence (R84, R108). -/
def decodeWrite (r : RegNum) (v : Half) : Instr :=
  if r = 0x001 then (commandOf v).getD (.wr r v) else .wr r v

/-- The four formats of R81, told apart by `KIND = w[31:28]`; everything else is reserved (R82). -/
def decodeWord (w : EventWord) : Except DecodeError Instr :=
  let kind : BitVec 4 := w.extractLsb' 28 4
  let r : RegNum := w.extractLsb' 16 12
  let v : Half := w.extractLsb' 0 16
  let hi : Byte := w.extractLsb' 8 8
  let lo : Byte := w.extractLsb' 0 8
  if kind = 0x0 then
    if r = 0 ∧ v = 0 then .ok .reset else .error .reservedEventWord
  else if kind = 0x1 then
    if r = 0 ∧ hi = 0 then .ok (.rx lo) else .error .reservedEventWord
  else if kind = 0x2 then .ok (decodeWrite r v)
  else if kind = 0x3 then
    if v = 0 then .ok (.rd r) else .error .reservedEventWord
  else .error .reservedEventWord

/-- A telemetry frame, told by header and length field (R90, R91). -/
def decodeTelemetry (bs : List Byte) : Except DecodeError Instr :=
  let payload (len : Nat) := (bs.drop 4).take (len - 2)
  let checksum (len : Nat) := cat16 (bs.getD (len + 2) 0) (bs.getD (len + 3) 0)
  if bs.take 4 = [HDR0, HDR1, 0x00, 0x14] ∧ bs.length = LEN_A + 4 then
    .ok (.tframe20 (payload LEN_A) (checksum LEN_A))
  else if bs.take 4 = [HDR0, HDR1, 0x00, 0x1C] ∧ bs.length = LEN_B + 4 then
    .ok (.tframe28 (payload LEN_B) (checksum LEN_B))
  else .error .notAWireFrame

/-- A wire frame: eight bytes from `DEV_ADDR` with one of the three function codes are a request (R93, R94, operands by
R100); anything else must be a telemetry frame. -/
def decodeFrame (cfg : Config) (bs : List Byte) : Except DecodeError Instr :=
  match bs with
  | [a, f, rh, rl, vh, vl, cl, ch] =>
    if a = cfg.devAddr then
      if f = cfg.rfA then .ok (.mbreqReadA (cat16 rh rl) (cat16 vh vl) (cat16 ch cl))
      else if f = cfg.rfB then .ok (.mbreqReadB (cat16 rh rl) (cat16 vh vl) (cat16 ch cl))
      else if f = cfg.wf then .ok (.mbreqWrite (cat16 rh rl) (cat16 vh vl) (cat16 ch cl))
      else .error .notAWireFrame
    else .error .notAWireFrame
  | _ => decodeTelemetry bs

/-- The decoder. -/
def decode (cfg : Config) : Token → Except DecodeError Instr
  | .word w => decodeWord w
  | .frame bs => decodeFrame cfg bs

/-- The item a table word stands for: an event word where it has at most 32 bits, else a wire frame, its first byte in bits
7:0.  DESIGN CHOICE (log 6), safe: the table gives the wire rows a bit pattern in wire order and no bit numbers, so a number
that spells no frame read that way is also tried with its bytes in the pattern's order. -/
def tokenOfTableWord (cfg : Config) (nbits w : Nat) : Token :=
  if nbits ≤ 32 then .word (BitVec.ofNat 32 w)
  else
    let bs := bytesOfNat (nbits / 8) w
    match decodeFrame cfg bs, decodeFrame cfg bs.reverse with
    | .error _, .ok _ => .frame bs.reverse
    | _, _ => .frame bs

/-- The instruction the decoder reads from a table word, under the default parameters the table's rows are written with
(R108). -/
def decodeTableWord (nbits w : Nat) : Option Instr :=
  (decode Config.default (tokenOfTableWord Config.default nbits w)).toOption

/-- A telemetry frame's bytes in wire order (R90). -/
def telemetryBytes (lenLo : Byte) (payload : List Byte) (checksum : Half) : List Byte :=
  [HDR0, HDR1, 0x00, lenLo] ++ payload ++ [hi8 checksum, lo8 checksum]

/-- A Modbus request's bytes in wire order, the CRC low byte first (R93). -/
def requestBytes (addr func : Byte) (reg val crc : Half) : List Byte :=
  [addr, func, hi8 reg, lo8 reg, hi8 val, lo8 val, lo8 crc, hi8 crc]

/-- Format W's word (R81). -/
def writeWord (r : RegNum) (v : Half) : EventWord := (0x2 : BitVec 4) ++ r ++ v

/-- The encoder: the item that spells an instruction (R81, R84, R90, R93). -/
def encode (cfg : Config) : Instr → Token
  | .reset => .word 0x00000000
  | .rx b => .word ((0x100000 : BitVec 24) ++ b)
  | .wr r v => .word (writeWord r v)
  | .rd r => .word ((0x3 : BitVec 4) ++ r ++ (0x0000 : Half))
  | .cmdNop => .word 0x20010000
  | .cmdSyncClr => .word 0x20010001
  | .cmdFrmAck => .word 0x20010002
  | .cmdDiagClr => .word 0x20010003
  | .cmdFlagClr => .word 0x20010004
  | .cmdMbEncode => .word 0x20010010
  | .cmdMbArm => .word 0x20010011
  | .cmdMbAbort => .word 0x20010012
  | .tframe20 p c => .frame (telemetryBytes 0x14 p c)
  | .tframe28 p c => .frame (telemetryBytes 0x1C p c)
  | .mbreqReadA reg n c => .frame (requestBytes cfg.devAddr cfg.rfA reg n c)
  | .mbreqReadB reg n c => .frame (requestBytes cfg.devAddr cfg.rfB reg n c)
  | .mbreqWrite reg v c => .frame (requestBytes cfg.devAddr cfg.wf reg v c)

end Sys2Proof
end

