-- ==== Sys2Proof/Machine/Integrity.lean ====
section
/-! DEFINITION. The integrity arithmetic: CRC16 and the additive checksum (40_integrity). -/

namespace Sys2Proof.Machine

/-- One of the eight shifts of `crc_step` (R121). -/
def crcShift (c : Half) : Half := if c.getLsbD 0 then (c >>> 1) ^^^ CRC_POLY else c >>> 1

/-- `crc_step(c, b)` (R121): the byte enters the low 8 bits, then eight shifts. -/
def crcStep (c : Half) (b : Byte) : Half :=
  crcShift (crcShift (crcShift (crcShift (crcShift (crcShift (crcShift (crcShift (c ^^^ zext16 b))))))))

/-- `crc16` (R120, R121). -/
def crc16 (m : List Byte) : Half := m.foldl crcStep CRC_INIT

/-- `sum_step` (R125). -/
def sumStep (s : Half) (b : Byte) : Half := s + zext16 b

/-- `sum16` (R125). -/
def sum16 (m : List Byte) : Half := m.foldl sumStep 0

end Sys2Proof.Machine
end

