-- ==== Sys2Proof/Machine/State.lean ====
section
/-! DEFINITION. The machine's state (R20, R40), its reset value (R46), and the reasons a step can stop. -/

namespace Sys2Proof.Machine

/-- A byte-addressed buffer (R49) as a list of (index, byte) in canonical form: indices strictly rising, no entry equal to
what an unlisted index reads as. -/
abbrev Memory := List Host.Cell

/-- The seven decoder states of R27, in code order; code 7 is unrepresentable (U14).  DEDUCED (log 10), safe. -/
inductive CfdSt where
  | seekHeader0 | seekHeader1 | readLenHi | readLenLo | readPayload | readChecksumHi | readChecksumLo
  deriving DecidableEq, Repr

/-- The cause codes of DISC_CAUSE (R36, R251). -/
inductive DiscCause where
  | none | badHeader1 | badLength | badChecksum
  deriving DecidableEq, Repr

/-- `MB_VMODE` (R38): 0 = CRC mode, 1 = ECHO mode. -/
inductive VMode where
  | crc | echo
  deriving DecidableEq, Repr

/-- The output of one event (R13). -/
inductive Output where
  | none
  | frame (len : Half) (data : List Byte)
  | mbresult (valid : Bool) (fail : BitVec 5)
  | rdata (v : Half)
  deriving DecidableEq, Repr

/-- The rows of the register map (R40). -/
inductive HostReg where
  | ctrl | cmd | status | mbFail | cfdSt | cfdIdx | cfdSum | cfdLen | cfdCkh | discCnt | discCause | frmLen
  | mbFunc | mbReg | mbVal | mbExpLen | mbVmode | mbIdx | mbCrc | txLen
  | txbuf (i : Nat) | frmData (i : Nat) | rxbuf (i : Nat)
  deriving DecidableEq, Repr

/-- The state: the registers of R40, the buffers, the hidden PAY (R32); and three fields of the model's own, `cfg`, `input`
and `out` (log 1, 2, 3). -/
structure State where
  /-- The instance's parameters (R8); no event writes them (R46). DESIGN CHOICE (log 1), safe. -/
  cfg : Config
  /-- The events of the run not yet taken (R80, R71). DESIGN CHOICE (log 2), safe. -/
  input : List Token
  /-- The outputs of the run so far, oldest first: its observation (R13). DESIGN CHOICE (log 3), safe. -/
  out : List Output
  /-- CTRL bit 0 (R23, R24): `false` routes RX to CFD, `true` to MFC. -/
  rxsel : Bool
  /-- STATUS bit 0, FRM_VALID (R34). -/
  frmValid : Bool
  /-- STATUS bit 1, FRM_OVR (R34). -/
  frmOvr : Bool
  /-- STATUS bit 2, MB_OUT (R34). -/
  mbOut : Bool
  /-- STATUS bit 3, MB_DONE (R34). -/
  mbDone : Bool
  /-- STATUS bit 4, MB_VALID (R34). -/
  mbValid : Bool
  /-- STATUS bit 5, ENC_ERR (R34). -/
  encErr : Bool
  /-- STATUS bit 6, CFG_ERR (R34). -/
  cfgErr : Bool
  /-- MB_FAIL (R35): bits F_CRC, F_ADDR, F_FUNC, F_BCNT, F_ECHO from bit 0. -/
  mbFail : BitVec 5
  /-- CFD_ST (R27). -/
  cfdSt : CfdSt
  /-- CFD_IDX (R28). -/
  cfdIdx : BitVec 5
  /-- CFD_SUM (R29). -/
  cfdSum : Half
  /-- CFD_LEN (R30). -/
  cfdLen : Half
  /-- CFD_CKH (R31). -/
  cfdCkh : Byte
  /-- DISC_CNT (R36). -/
  discCnt : Half
  /-- DISC_CAUSE (R36). -/
  discCause : DiscCause
  /-- FRM_LEN (R33). -/
  frmLen : Half
  /-- MB_FUNC (R37). -/
  mbFunc : Byte
  /-- MB_REG (R37). -/
  mbReg : Half
  /-- MB_VAL (R37). -/
  mbVal : Half
  /-- MB_EXP_LEN (R38). -/
  mbExpLen : BitVec 9
  /-- MB_VMODE (R38). -/
  mbVmode : VMode
  /-- MB_IDX (R39). -/
  mbIdx : BitVec 9
  /-- MB_CRC (R39). -/
  mbCrc : Half
  /-- TXLEN (R41): legal values 0..8 only, so that a larger one is unrepresentable (U14).  DEDUCED (log 10), safe. -/
  txLen : Fin 9
  /-- TXBUF[0..7] (R41). -/
  txbuf : Memory
  /-- FRM_DATA[0..25] (R33). -/
  frmData : Memory
  /-- RXBUF[0..259] (R42). -/
  rxbuf : Memory
  /-- PAY[0..25], hidden (R32). -/
  pay : Memory
  deriving DecidableEq, Repr

/-- The state after reset and at power-on (R46, R280): everything 0 but `MB_CRC = 0xFFFF`.  The model's own fields: the default
parameters of R8, no event yet to take, no output yet. -/
def State.reset : State where
  cfg := Config.default
  input := []
  out := []
  rxsel := false
  frmValid := false
  frmOvr := false
  mbOut := false
  mbDone := false
  mbValid := false
  encErr := false
  cfgErr := false
  mbFail := 0
  cfdSt := .seekHeader0
  cfdIdx := 0
  cfdSum := 0
  cfdLen := 0
  cfdCkh := 0
  discCnt := 0
  discCause := .none
  frmLen := 0
  mbFunc := 0
  mbReg := 0
  mbVal := 0
  mbExpLen := 0
  mbVmode := .crc
  mbIdx := 0
  mbCrc := 0xFFFF
  txLen := 0
  txbuf := []
  frmData := []
  rxbuf := []
  pay := []

/-- The machine's faults: the steps U14 calls a fault of the model.  No run from reset reaches either (R44, R45); both are
safe. -/
inductive Fault where
  /-- Raised by an `RX` routed to CFD in a state whose (CFD_ST, CFD_IDX, CFD_LEN) is outside the table of R44 (U14).  Safe. -/
  | cfdPositionOffTable
  /-- Raised by an `RX` routed to an armed collector with `n` outside its legal range, `MB_IDX ≥ n` or `MB_DONE = 1` (U14).
  Safe. -/
  | collectorUnreachable
  deriving DecidableEq, Repr

/-- The refusals at the boundary. -/
inductive Refusal where
  /-- Raised by exec for an instruction that has no meaning yet (none at present).  Safe. -/
  | notModelled (mnemonic : String)
  /-- Raised by step for a reserved event word, which spells no event (R82, U13).  Safe. -/
  | reservedEventWord
  /-- Raised by step for a byte string that is none of the wire frame kinds of R108.  Safe. -/
  | notAWireFrame
  deriving DecidableEq, Repr

/-- What a step or a meaning answers. -/
abbrev Result := Host.Outcome State Fault Refusal

end Sys2Proof.Machine
end

