-- ==== Sys2Proof/Machine/Ops.lean ====
section
/-! DEFINITION. The shared operations: buffers, outputs, `refuse` (R204), resynchronization (R141), the discard
micro-sequence (R252), sequencing, and taking the next item of the run. -/

namespace Sys2Proof.Machine

/-- What an index no entry lists reads as: the reset contents, 0 (R46, R280).  DEDUCED (log 11), safe. -/
abbrev Memory.unlisted : Byte := 0

/-- `B[i]` (R11). -/
def Memory.read : Memory → Nat → Byte
  | [], _ => Memory.unlisted
  | (k, w) :: m, i => if k = i then w else Memory.read m i

/-- A buffer without its entries for an index. -/
def Memory.erase : Memory → Nat → Memory
  | [], _ => []
  | (k, w) :: m, i => if k = i then Memory.erase m i else (k, w) :: Memory.erase m i

/-- A buffer with one more entry, at its place in index order. -/
def Memory.insert : Memory → Nat → Byte → Memory
  | [], i, v => [(i, v)]
  | (k, w) :: m, i, v => if i < k then (i, v) :: (k, w) :: m else (k, w) :: Memory.insert m i v

/-- `B[i] <- v` (R11), keeping the canonical form. -/
def Memory.write (m : Memory) (i : Nat) (v : Byte) : Memory :=
  if v = Memory.unlisted then m.erase i else (m.erase i).insert i v

/-- The canonical form, from index `lo` on and below `cap`. -/
def Memory.wfFrom (cap : Nat) : Nat → Memory → Bool
  | _, [] => true
  | lo, (k, w) :: m => decide (lo ≤ k) && decide (k < cap) && decide (w ≠ Memory.unlisted) && Memory.wfFrom cap (k + 1) m

/-- The canonical form of a buffer of `cap` bytes. -/
def Memory.wf (cap : Nat) (m : Memory) : Bool := Memory.wfFrom cap 0 m

/-- `B[i], B[i+1], …  <- bs` in order. -/
def Memory.writeBytes (m : Memory) (i : Nat) : List Byte → Memory
  | [] => m
  | b :: bs => Memory.writeBytes (m.write i b) (i + 1) bs

/-- `B[0 .. n−1]` (R11). -/
def Memory.readBytes (m : Memory) (n : Nat) : List Byte := (List.range n).map m.read

/-- Append one event's output to the observation (R13). -/
def State.emit (s : State) (o : Output) : State := { s with out := s.out ++ [o] }

/-- `refuse` (R204): one thing changes, `CFG_ERR <- 1`; the output is `none`. -/
def refuse (s : State) : Result := .next ({ s with cfgErr := true }.emit .none)

/-- The lock of R43: refused while `MB_OUT = 1`. -/
def unlessArmed (s : State) (k : State → Result) : Result := if s.mbOut then refuse s else k s

/-- `cfd_resync()` (R141): the seek state, nothing else. -/
def State.cfdResync (s : State) : State :=
  { s with cfdSt := .seekHeader0, cfdIdx := 0, cfdSum := 0, cfdLen := 0, cfdCkh := 0 }

/-- `min(DISC_CNT + 1, 0xFFFF)` (R252, R130). -/
def satInc (n : Half) : Half := if n = DISC_MAX then DISC_MAX else n + 1

/-- `raise Discard(cause)` (R252), the block's one exception: count, record the cause, resynchronize.  There is no return
operation beside it (R257). -/
def State.raiseDiscard (s : State) (cause : DiscCause) : State :=
  { s with discCnt := satInc s.discCnt, discCause := cause }.cfdResync

/-- Two steps in sequence. -/
def andThen (r : Result) (k : State → Result) : Result :=
  match r with
  | .next s => k s
  | .fault f => .fault f
  | .refused e => .refused e

/-- Take the next item of the run, where there is one (R70, R80). -/
def fetch (s : State) : Option (Token × State) :=
  match s.input with
  | [] => none
  | t :: ts => some (t, { s with input := ts })

/-- The name under which an undecodable item is refused (R82). -/
def refusalOf : DecodeError → Refusal
  | .reservedEventWord => .reservedEventWord
  | .notAWireFrame => .notAWireFrame

end Sys2Proof.Machine
end

