-- ==== Sys2Proof/Machine/Operands.lean ====
section
/-! DEFINITION. The register map (R40) and what a host access reads (R22, R202); the expected length of an exchange (R177);
the words of a payload (R99, R158). -/

namespace Sys2Proof.Machine

/-- The rows of R40 that name one register. -/
def scalarRegs : List (RegNum × HostReg) :=
  [(0x000, .ctrl), (0x001, .cmd), (0x002, .status), (0x003, .mbFail), (0x004, .cfdSt), (0x005, .cfdIdx),
   (0x006, .cfdSum), (0x007, .cfdLen), (0x008, .cfdCkh), (0x009, .discCnt), (0x00A, .discCause), (0x00B,
   .frmLen), (0x010, .mbFunc), (0x011, .mbReg), (0x012, .mbVal), (0x013, .mbExpLen), (0x014, .mbVmode),
   (0x015, .mbIdx), (0x016, .mbCrc), (0x017, .txLen)]

/-- The rows of R40 that map a buffer, one byte a number. -/
def bufferRegAt (n : Nat) : Option HostReg :=
  if 0x020 ≤ n ∧ n < 0x020 + TX_CAP then some (.txbuf (n - 0x020))
  else if 0x040 ≤ n ∧ n < 0x040 + PAY_CAP then some (.frmData (n - 0x040))
  else if 0x100 ≤ n ∧ n < 0x100 + MB_CAP then some (.rxbuf (n - 0x100))
  else none

/-- The register map of R40: the register with a number, `none` where the number is unmapped. -/
def regAt (r : RegNum) : Option HostReg :=
  match scalarRegs.find? fun row => row.1 == r with
  | some row => some row.2
  | none => bufferRegAt r.toNat

/-- The codes of R27. -/
def CfdSt.code : CfdSt → BitVec 3
  | .seekHeader0 => 0
  | .seekHeader1 => 1
  | .readLenHi => 2
  | .readLenLo => 3
  | .readPayload => 4
  | .readChecksumHi => 5
  | .readChecksumLo => 6

/-- The codes of R36. -/
def DiscCause.code : DiscCause → BitVec 2
  | .none => 0
  | .badHeader1 => 1
  | .badLength => 2
  | .badChecksum => 3

/-- The codes of R38. -/
def VMode.code : VMode → BitVec 1
  | .crc => 0
  | .echo => 1

/-- The mode a 1-bit register write selects (R38). -/
def VMode.ofBit (b : Bool) : VMode := if b then .echo else .crc

/-- STATUS assembled from its seven flags, bits 15:7 zero (R34). -/
def statusWord (s : State) : Half :=
  BitVec.ofNat 16 (s.frmValid.toNat + 2 * s.frmOvr.toNat + 4 * s.mbOut.toNat + 8 * s.mbDone.toNat
    + 16 * s.mbValid.toNat + 32 * s.encErr.toNat + 64 * s.cfgErr.toNat)

/-- A register zero-extended to 16 bits (R22); CMD reads 0 (R25). -/
def readReg (s : State) : HostReg → Half
  | .ctrl => (BitVec.ofBool s.rxsel).setWidth 16
  | .cmd => 0
  | .status => statusWord s
  | .mbFail => s.mbFail.setWidth 16
  | .cfdSt => s.cfdSt.code.setWidth 16
  | .cfdIdx => s.cfdIdx.setWidth 16
  | .cfdSum => s.cfdSum
  | .cfdLen => s.cfdLen
  | .cfdCkh => zext16 s.cfdCkh
  | .discCnt => s.discCnt
  | .discCause => s.discCause.code.setWidth 16
  | .frmLen => s.frmLen
  | .mbFunc => zext16 s.mbFunc
  | .mbReg => s.mbReg
  | .mbVal => s.mbVal
  | .mbExpLen => s.mbExpLen.setWidth 16
  | .mbVmode => s.mbVmode.code.setWidth 16
  | .mbIdx => s.mbIdx.setWidth 16
  | .mbCrc => s.mbCrc
  | .txLen => BitVec.ofNat 16 s.txLen.val
  | .txbuf i => zext16 (s.txbuf.read i)
  | .frmData i => zext16 (s.frmData.read i)
  | .rxbuf i => zext16 (s.rxbuf.read i)

/-- `zext_16(x[r])`, and 0 for every unmapped number (R202, R68). -/
def hostRead (s : State) (r : RegNum) : Half := ((regAt r).map (readReg s)).getD 0

/-- The expected length `n` of an exchange (R177). -/
def State.expectedLen (s : State) : Nat :=
  match s.mbVmode with
  | .crc => s.mbExpLen.toNat
  | .echo => s.txLen.val

/-- The legal range of `n` (R175). -/
def State.expectedLenLegal (s : State) : Bool :=
  match s.mbVmode with
  | .crc => decide (RSP_OVERHEAD ≤ s.mbExpLen.toNat) && decide (s.mbExpLen.toNat ≤ MB_CAP)
  | .echo => decide (1 ≤ s.txLen.val) && decide (s.txLen.val ≤ TX_CAP)

/-- Payload word `W[k]` of the latched frame, big-endian (R99, R158). -/
def State.payloadWord (s : State) (k : Nat) : Half := cat16 (s.frmData.read (2 * k)) (s.frmData.read (2 * k + 1))

/-- The words of the latched frame, `k = 0 .. (len − 2) / 2 − 1` (R99, R158). -/
def State.payloadWords (s : State) : List Half := (List.range ((s.frmLen.toNat - 2) / 2)).map s.payloadWord

/-- The latched frame as named fields, under the consumer's parameter `FIELD_MAP` from names to word numbers (R158). -/
def State.namedFields (fieldMap : List (String × Nat)) (s : State) : List (String × Half) :=
  fieldMap.filterMap fun (name, k) => (s.payloadWords[k]?).map fun w => (name, w)

end Sys2Proof.Machine
end

