-- ==== Sys2Proof/Machine/Flags.lean ====
section
/-! DEFINITION. The checks behind MB_FAIL and ENC_ERR (R35, R171, R180, R181). -/

namespace Sys2Proof.Machine

/-- Which requests the encoder accepts (R171). -/
def encodable (cfg : Config) (f : Byte) (v : Half) : Bool :=
  decide ((f = cfg.rfA ∨ f = cfg.rfB) ∧ 1 ≤ v.toNat) || decide (f = cfg.wf)

/-- F_CRC (R180, R123): the trailing two bytes differ from the CRC of the rest. -/
def failCrc (b : Memory) (n : Nat) : Bool :=
  let c := crc16 (b.readBytes (n - 2))
  !(b.read (n - 2) == lo8 c && b.read (n - 1) == hi8 c)

/-- F_ADDR (R180). -/
def failAddr (cfg : Config) (b : Memory) : Bool := b.read 0 != cfg.devAddr

/-- F_FUNC (R180): neither of the two read codes. -/
def failFunc (cfg : Config) (b : Memory) : Bool := b.read 1 != cfg.rfA && b.read 1 != cfg.rfB

/-- F_BCNT (R180, R100), on mathematical integers. -/
def failBcnt (b : Memory) (n : Nat) : Bool := (b.read 2).toNat != n - RSP_OVERHEAD

/-- F_ECHO (R181): some byte differs from the request byte at the same index. -/
def failEcho (b tx : Memory) (n : Nat) : Bool := (List.range n).any fun i => b.read i != tx.read i

/-- `{F_ECHO, F_BCNT, F_FUNC, F_ADDR, F_CRC}`, bit 4 to bit 0 (R182, R35). -/
def failMask (fCrc fAddr fFunc fBcnt fEcho : Bool) : BitVec 5 :=
  BitVec.ofNat 5 (fCrc.toNat + 2 * fAddr.toNat + 4 * fFunc.toNat + 8 * fBcnt.toNat + 16 * fEcho.toNat)

/-- The mask of a completed exchange (R180 in CRC mode, R181 in ECHO mode). -/
def State.verdict (s : State) : BitVec 5 :=
  let n := s.expectedLen
  match s.mbVmode with
  | .crc => failMask (failCrc s.rxbuf n) (failAddr s.cfg s.rxbuf) (failFunc s.cfg s.rxbuf) (failBcnt s.rxbuf n) false
  | .echo => failMask false false false false (failEcho s.rxbuf s.txbuf n)

end Sys2Proof.Machine
end

