-- ==== Sys2Proof/Machine/Modbus.lean ====
section
/-! DEFINITION. MFC, the Modbus codec (42_modbus_codec): MB_ENCODE, MB_ARM, the collector and its verdict, MB_ABORT. -/

namespace Sys2Proof.Machine

/-- The first six bytes of the request the operand registers describe (R93, R170). -/
def State.requestHead (s : State) : List Byte :=
  [s.cfg.devAddr, s.mbFunc, hi8 s.mbReg, lo8 s.mbReg, hi8 s.mbVal, lo8 s.mbVal]

/-- `CMD MB_ENCODE` (R170 to R172); the busy test comes first (R255). -/
def execCmdMbEncode (s : State) : Result :=
  unlessArmed s fun s =>
    if encodable s.cfg s.mbFunc s.mbVal then
      let c := crc16 s.requestHead
      .next ({ s with
        txbuf := s.txbuf.writeBytes 0 (s.requestHead ++ [lo8 c, hi8 c])
        txLen := 8
        encErr := false }.emit .none)
    else .next ({ s with encErr := true }.emit .none)

/-- `CMD MB_ARM` (R175, R176). -/
def execCmdMbArm (s : State) : Result :=
  unlessArmed s fun s =>
    if s.expectedLenLegal then
      .next ({ s with
        mbIdx := 0
        mbCrc := CRC_INIT
        mbDone := false
        mbValid := false
        mbFail := 0
        mbOut := true }.emit .none)
    else refuse s

/-- `CMD MB_ABORT` (R184): never refused. -/
def execCmdMbAbort (s : State) : Result := .next ({ s with mbOut := false }.emit .none)

/-- `complete()` (R182). -/
def State.complete (s : State) : State :=
  let mask := s.verdict
  { s with mbFail := mask, mbValid := decide (mask = 0), mbDone := true, mbOut := false }.emit
    (.mbresult (decide (mask = 0)) mask)

/-- Whether CRC mode folds the byte at index `i` into MB_CRC (R178, R179). -/
def State.foldsCrc (s : State) : Bool := decide (s.mbVmode = .crc) && decide (s.mbIdx.toNat < s.expectedLen - 2)

/-- The armed collector takes a byte (R178): stored, folded, counted. -/
def State.collect (s : State) (b : Byte) : State :=
  { s with
    rxbuf := s.rxbuf.write s.mbIdx.toNat b
    mbCrc := if s.foldsCrc then crcStep s.mbCrc b else s.mbCrc
    mbIdx := s.mbIdx + 1 }

/-- The part of R45 that R178 rests on (U14). -/
def State.collectorOk (s : State) : Bool :=
  s.expectedLenLegal && decide (s.mbIdx.toNat < s.expectedLen) && !s.mbDone

/-- `RX b` with `RXSEL = 1` (R178).  DEDUCED (log 5), safe: an armed collector outside R45 has no behaviour (U14). -/
def rxCollector (b : Byte) (s : State) : Result :=
  if !s.mbOut then .next (s.emit .none)
  else if s.collectorOk then
    if s.mbIdx.toNat + 1 = s.expectedLen then .next (s.collect b).complete
    else .next ((s.collect b).emit .none)
  else .fault .collectorUnreachable

end Sys2Proof.Machine
end

