-- ==== Sys2Proof/Machine/Telemetry.lean ====
section
/-! DEFINITION. CFD, the telemetry decoder (41_telemetry_decoder): the seven rules of `RX`, SYNC_CLR and FRM_ACK. -/

namespace Sys2Proof.Machine

/-- The table of R44: which (CFD_ST, CFD_IDX, CFD_LEN) a reachable state has. -/
def positionOk (st : CfdSt) (idx len : Nat) : Bool :=
  match st with
  | .seekHeader0 => idx == 0 && len == 0
  | .seekHeader1 => idx == 1 && len == 0
  | .readLenHi => idx == 2 && len == 0
  | .readLenLo => idx == 3 && len % 256 == 0
  | .readPayload => (len == LEN_A || len == LEN_B) && (decide (4 ≤ idx) && decide (idx ≤ len + 1))
  | .readChecksumHi => (len == LEN_A || len == LEN_B) && idx == len + 2
  | .readChecksumLo => (len == LEN_A || len == LEN_B) && idx == len + 3

/-- The same of a state. -/
def State.cfdPositionOk (s : State) : Bool := positionOk s.cfdSt s.cfdIdx.toNat s.cfdLen.toNat

/-- `RX b` in S0 (R143). -/
def rxSeekHeader0 (b : Byte) (s : State) : State :=
  if b = HDR0 then { s with cfdSum := 0x0042, cfdIdx := 1, cfdSt := .seekHeader1 }.emit .none else s.emit .none

/-- `RX b` in S1 (R144): a second `0x42` is a mismatch like any other. -/
def rxSeekHeader1 (b : Byte) (s : State) : State :=
  if b = HDR1 then { s with cfdSum := sumStep s.cfdSum b, cfdIdx := 2, cfdSt := .readLenHi }.emit .none
  else (s.raiseDiscard .badHeader1).emit .none

/-- `RX b` in S2 (R145). -/
def rxReadLenHi (b : Byte) (s : State) : State :=
  { s with cfdSum := sumStep s.cfdSum b, cfdLen := cat16 b 0x00, cfdIdx := 3, cfdSt := .readLenLo }.emit .none

/-- `RX b` in S3 (R146): the compare is on all 16 bits. -/
def rxReadLenLo (b : Byte) (s : State) : State :=
  let len := cat16 (hi8 s.cfdLen) b
  if len.toNat = LEN_A ∨ len.toNat = LEN_B then
    { s with cfdSum := sumStep s.cfdSum b, cfdLen := len, cfdIdx := 4, cfdSt := .readPayload }.emit .none
  else (s.raiseDiscard .badLength).emit .none

/-- `RX b` in S4 (R147). -/
def rxReadPayload (b : Byte) (s : State) : State :=
  let i := s.cfdIdx.toNat
  { s with
    pay := s.pay.write (i - 4) b
    cfdSum := sumStep s.cfdSum b
    cfdIdx := s.cfdIdx + 1
    cfdSt := if i + 1 = s.cfdLen.toNat + 2 then .readChecksumHi else .readPayload }.emit .none

/-- `RX b` in S5 (R148): the sum does not change. -/
def rxReadChecksumHi (b : Byte) (s : State) : State :=
  { s with cfdCkh := b, cfdIdx := s.cfdIdx + 1, cfdSt := .readChecksumLo }.emit .none

/-- The 26 bytes emission writes to FRM_DATA: the payload, then zeros (R149, R33). -/
def latchedBytes (s : State) : List Byte :=
  (List.range PAY_CAP).map fun i => if i < s.cfdLen.toNat - 2 then s.pay.read i else 0x00

/-- Emission (R149): the frame is latched, flagged and output, and CFD resynchronizes. -/
def emitFrame (s : State) : State :=
  ({ s with
      frmData := s.frmData.writeBytes 0 (latchedBytes s)
      frmLen := s.cfdLen
      frmOvr := s.frmOvr || s.frmValid
      frmValid := true }.cfdResync).emit (.frame s.cfdLen (s.pay.readBytes (s.cfdLen.toNat - 2)))

/-- `RX b` in S6 (R149, R127). -/
def rxReadChecksumLo (b : Byte) (s : State) : State :=
  if s.cfdCkh = hi8 s.cfdSum ∧ b = lo8 s.cfdSum then emitFrame s
  else (s.raiseDiscard .badChecksum).emit .none

/-- The rule `CFD_ST` chooses (R142, R26). -/
def cfdByte (b : Byte) (s : State) : State :=
  match s.cfdSt with
  | .seekHeader0 => rxSeekHeader0 b s
  | .seekHeader1 => rxSeekHeader1 b s
  | .readLenHi => rxReadLenHi b s
  | .readLenLo => rxReadLenLo b s
  | .readPayload => rxReadPayload b s
  | .readChecksumHi => rxReadChecksumHi b s
  | .readChecksumLo => rxReadChecksumLo b s

/-- `RX b` routed to CFD (R142).  DEDUCED (log 4), safe: off the table of R44 the rules give the byte no meaning (U14). -/
def rxTelemetry (b : Byte) (s : State) : Result :=
  if s.cfdPositionOk then .next (cfdByte b s) else .fault .cfdPositionOffTable

/-- `CMD SYNC_CLR` (R151). -/
def execCmdSyncClr (s : State) : Result := .next (s.cfdResync.emit .none)

/-- `CMD FRM_ACK` (R152). -/
def execCmdFrmAck (s : State) : Result := .next ({ s with frmValid := false, frmOvr := false }.emit .none)

end Sys2Proof.Machine
end

