-- ==== Sys2Proof/Machine/Access.lean ====
section
/-! DEFINITION. Host access and housekeeping (43_host_access): RESET, RX routing, WR, RD, NOP, DIAG_CLR, FLAG_CLR. -/

namespace Sys2Proof.Machine

/-- `RESET` (R200): every register and buffer takes its reset value; parameters (R46), run and observation stay. -/
def execReset (s : State) : Result :=
  .next ({ State.reset with cfg := s.cfg, input := s.input, out := s.out }.emit .none)

/-- `RX b`, routed by RXSEL (R24, R142, R178). -/
def execRx (b : Byte) (s : State) : Result := if s.rxsel then rxCollector b s else rxTelemetry b s

/-- `CMD NOP` (R206). -/
def execCmdNop (s : State) : Result := .next (s.emit .none)

/-- `CMD DIAG_CLR` (R207). -/
def execCmdDiagClr (s : State) : Result := .next ({ s with discCnt := 0, discCause := .none }.emit .none)

/-- `CMD FLAG_CLR` (R208). -/
def execCmdFlagClr (s : State) : Result := .next ({ s with encErr := false, cfgErr := false }.emit .none)

/-- Command dispatch on all 16 bits of the data (R205, R84). -/
def execCommand (v : Half) (s : State) : Result :=
  if v = 0x0000 then execCmdNop s
  else if v = 0x0001 then execCmdSyncClr s
  else if v = 0x0002 then execCmdFrmAck s
  else if v = 0x0003 then execCmdDiagClr s
  else if v = 0x0004 then execCmdFlagClr s
  else if v = 0x0010 then execCmdMbEncode s
  else if v = 0x0011 then execCmdMbArm s
  else if v = 0x0012 then execCmdMbAbort s
  else refuse s

/-- `WR TXLEN, v`: all 16 bits are compared with 8 (R201). -/
def writeTxLen (v : Half) (s : State) : Result :=
  if h : v.toNat < 9 then .next ({ s with txLen := ⟨v.toNat, h⟩ }.emit .none) else refuse s

/-- `WR r v` by target (R201); over-wide data is truncated, read-only and unmapped targets are refused (R204). -/
def execWr (r : RegNum) (v : Half) (s : State) : Result :=
  match regAt r with
  | some .ctrl => .next ({ s with rxsel := v.getLsbD 0 }.emit .none)
  | some .cmd => execCommand v s
  | some .mbFunc => .next ({ s with mbFunc := lo8 v }.emit .none)
  | some .mbReg => .next ({ s with mbReg := v }.emit .none)
  | some .mbVal => .next ({ s with mbVal := v }.emit .none)
  | some .mbExpLen => unlessArmed s fun s => .next ({ s with mbExpLen := v.extractLsb' 0 9 }.emit .none)
  | some .mbVmode => unlessArmed s fun s => .next ({ s with mbVmode := VMode.ofBit (v.getLsbD 0) }.emit .none)
  | some .txLen => unlessArmed s (writeTxLen v)
  | some (.txbuf i) => unlessArmed s fun s => .next ({ s with txbuf := s.txbuf.write i (lo8 v) }.emit .none)
  | some .status | some .mbFail | some .cfdSt | some .cfdIdx | some .cfdSum | some .cfdLen | some .cfdCkh
  | some .discCnt | some .discCause | some .frmLen | some .mbIdx | some .mbCrc
  | some (.frmData _) | some (.rxbuf _) => refuse s
  | none => refuse s

/-- `RD r` (R202): no state changes, ever. -/
def execRd (r : RegNum) (s : State) : Result := .next (s.emit (.rdata (hostRead s r)))

end Sys2Proof.Machine
end

