-- ==== Sys2Proof/Machine/Frames.lean ====
section
/-! DEFINITION. The five wire frame kinds (30_encoding R90, R93, R108): a frame's bytes reach the block in wire order, one
`RX` event each, with no event between (the pseudo-instruction RXS of R106). -/

namespace Sys2Proof.Machine

/-- `RXS b0 b1 … bk` (R106). -/
def feedBytes : List Byte → State → Result
  | [], s => .next s
  | b :: bs, s => andThen (execRx b s) (feedBytes bs)

/-- A telemetry frame with length field 20 arrives (R90, R142 to R149).  DESIGN CHOICE (log 7), safe. -/
def execTframe20 (payload : List Byte) (checksum : Half) (s : State) : Result :=
  feedBytes (telemetryBytes 0x14 payload checksum) s

/-- A telemetry frame with length field 28 arrives (R90, R142 to R149).  DESIGN CHOICE (log 7), safe. -/
def execTframe28 (payload : List Byte) (checksum : Half) (s : State) : Result :=
  feedBytes (telemetryBytes 0x1C payload checksum) s

/-- A read request with code `RF_A` arrives on the wire, as the echo of R97 does (R93, R185).  DESIGN CHOICE (log 7), safe. -/
def execMbreqReadA (reg count crc : Half) (s : State) : Result :=
  feedBytes (requestBytes s.cfg.devAddr s.cfg.rfA reg count crc) s

/-- A read request with code `RF_B` arrives on the wire (R93, R185).  DESIGN CHOICE (log 7), safe. -/
def execMbreqReadB (reg count crc : Half) (s : State) : Result :=
  feedBytes (requestBytes s.cfg.devAddr s.cfg.rfB reg count crc) s

/-- A write request arrives on the wire, the write acknowledgement of R97 (R93, R185).  DESIGN CHOICE (log 7), safe. -/
def execMbreqWrite (reg value crc : Half) (s : State) : Result :=
  feedBytes (requestBytes s.cfg.devAddr s.cfg.wf reg value crc) s

end Sys2Proof.Machine
end

