-- ==== Sys2Proof/Machine/Dispatch.lean ====
section
/-! DEFINITION. The dispatch: one arm per constructor of Instr. -/

namespace Sys2Proof.Machine

def exec (i : Instr) (s : State) : Host.Outcome State Fault Refusal :=
  match i with
  | .reset => Sys2Proof.Machine.execReset s
  | .rx b => Sys2Proof.Machine.execRx b s
  | .wr r v => Sys2Proof.Machine.execWr r v s
  | .rd r => Sys2Proof.Machine.execRd r s
  | .cmdNop => Sys2Proof.Machine.execCmdNop s
  | .cmdSyncClr => Sys2Proof.Machine.execCmdSyncClr s
  | .cmdFrmAck => Sys2Proof.Machine.execCmdFrmAck s
  | .cmdDiagClr => Sys2Proof.Machine.execCmdDiagClr s
  | .cmdFlagClr => Sys2Proof.Machine.execCmdFlagClr s
  | .cmdMbEncode => Sys2Proof.Machine.execCmdMbEncode s
  | .cmdMbArm => Sys2Proof.Machine.execCmdMbArm s
  | .cmdMbAbort => Sys2Proof.Machine.execCmdMbAbort s
  | .tframe20 p c => Sys2Proof.Machine.execTframe20 p c s
  | .tframe28 p c => Sys2Proof.Machine.execTframe28 p c s
  | .mbreqReadA r n c => Sys2Proof.Machine.execMbreqReadA r n c s
  | .mbreqReadB r n c => Sys2Proof.Machine.execMbreqReadB r n c s
  | .mbreqWrite r v c => Sys2Proof.Machine.execMbreqWrite r v c s

end Sys2Proof.Machine
end

