-- ==== Sys2Proof/Machine/Step.lean ====
section
/-! DEFINITION. One step: take the next item of the run, decode it, execute it (R5, R70, R80). -/

namespace Sys2Proof.Machine

/-- One step.  DESIGN CHOICE (log 8), safe: where the run's events are exhausted nothing happens (R13: no halt event, no terminal
state). -/
def step (s : State) : Host.Outcome State Fault Refusal :=
  match fetch s with
  | none => .next s
  | some (t, s') =>
    match decode s'.cfg t with
    | .ok i => exec i s'
    | .error e => .refused (refusalOf e)

/-- `s` with the item a table word stands for as the next item of its run. -/
def State.withFetchWord (s : State) (nbits w : Nat) : State :=
  { s with input := tokenOfTableWord s.cfg nbits w :: s.input }

end Sys2Proof.Machine
end

