-- ==== Sys2Proof/Machine/Assembler.lean ====
section
/-! DEFINITION. The assembler notation's pseudo-instructions and their expansions (R105, R106), and running a list of
events. -/

namespace Sys2Proof.Machine

/-- The pseudo-instructions of R106; `CMD <mnemonic>` is the command's own constructor (R84). -/
inductive Pseudo where
  | rxs (bytes : List Byte)
  | selTelem
  | selModbus
  | req (f r v : Half)
  | expectCrc (n : Half)
  | expectEcho
  | loadTx (bytes : List Byte)
  deriving DecidableEq, Repr

/-- `WR TXBUF[i], b0; WR TXBUF[i+1], b1; …` (R105, R106). -/
def writeTxFrom (i : Nat) : List Byte → List Instr
  | [] => []
  | b :: bs => .wr (BitVec.ofNat 12 (0x020 + i)) (zext16 b) :: writeTxFrom (i + 1) bs

/-- The expansions of R106, in order. -/
def Pseudo.expand : Pseudo → List Instr
  | .rxs bs => bs.map .rx
  | .selTelem => [.wr 0x000 0]
  | .selModbus => [.wr 0x000 1]
  | .req f r v => [.wr 0x010 f, .wr 0x011 r, .wr 0x012 v, .cmdMbEncode]
  | .expectCrc n => [.wr 0x014 0, .wr 0x013 n, .cmdMbArm]
  | .expectEcho => [.wr 0x014 1, .cmdMbArm]
  | .loadTx bs => writeTxFrom 0 bs ++ [.wr 0x017 (BitVec.ofNat 16 bs.length)]

/-- The events of a list, one after the other (R70). -/
def execAll : List Instr → State → Result
  | [], s => .next s
  | i :: is, s => andThen (exec i s) (execAll is)

end Sys2Proof.Machine
end

