-- ==== Sys2Proof/Machine/Session.lean ====
section
/-! DEFINITION. The host session around the block (44_host_session): the transport, blocking and non-blocking reads, warm-up,
averaging, and the session's states.  None of it is state of the block or used by step (R6, R21); every time value and bound is
an argument (U7, U8).  DESIGN CHOICE (log 9, 12, 14, 15, 17, 18),
unsafe. -/

namespace Sys2Proof.Machine

/-- What ends a blocking read with success: `FRAME`, or `MBRESULT(1, _)` (R221). -/
def Output.isSuccess : Output → Bool
  | .none => false
  | .frame _ _ => true
  | .mbresult valid _ => valid
  | .rdata _ => false

/-- A `FRAME` output (R222). -/
def Output.isFrame : Output → Bool
  | .none => false
  | .frame _ _ => true
  | .mbresult _ _ => false
  | .rdata _ => false

/-- The outputs between two states of a run. -/
def outputsSince (s t : State) : List Output := t.out.drop s.out.length

/-- The next state, where there is one. -/
def nextOf : Result → Option State
  | .next s => some s
  | .fault _ => none
  | .refused _ => none

/-- One poll of the transport: `nowMillis()`, and the bytes that have become available since the poll before (R230). -/
abbrev Poll := Nat × List Byte

/-- The transport as the host uses it (R230). -/
structure Transport where
  /-- The polls to come, in time order. -/
  polls : List Poll
  /-- What `writeBytes` was given so far. -/
  written : List Byte
  deriving DecidableEq, Repr

/-- `flushInput()` at a time: what arrived until then is discarded (R230). -/
def Transport.flushInput (p : Transport) (now : Nat) : Transport :=
  { p with polls := p.polls.map fun q => if q.1 ≤ now then (q.1, []) else q }

/-- `writeBytes(buffer)` (R230).  DESIGN CHOICE (log 14), unsafe: the transport takes the whole buffer, so the count written is
its length and is not given. -/
def Transport.writeBytes (p : Transport) (bs : List Byte) : Transport := { p with written := p.written ++ bs }

/-- The polls of a host that does nothing until a time: what arrives meanwhile is available then. -/
def idleUntil (time : Nat) (polls : List Poll) : List Poll :=
  (time, (polls.takeWhile fun q => decide (q.1 ≤ time)).flatMap Prod.snd) :: polls.dropWhile fun q => decide (q.1 ≤ time)

/-- Non-blocking read (R222): pump the bytes available now, once, and report whether a frame completed in that pass. -/
def nonBlockingRead (available : List Byte) (s : State) : Option (State × Bool) :=
  (nextOf (feedBytes available s)).map fun t => (t, (outputsSince s t).any Output.isFrame)

/-- One pass of the pumping loop (R221): bytes go in until a step's output is one that is waited for, which is answered with the
bytes not yet taken, or until they are used up. -/
def pumpUntil (stop : Output → Bool) : List Byte → State → Option (State × Option (Output × List Byte))
  | [], s => some (s, none)
  | b :: bs, s =>
    match execRx b s with
    | .next t =>
      match (outputsSince s t).find? stop with
      | some o => some (t, some (o, bs))
      | none => pumpUntil stop bs t
    | .fault _ => none
    | .refused _ => none

/-- How a wait for an output ends, with the time and the polls left (R221): never partial data. -/
inductive ReadEnd where
  | success (o : Output) (s : State) (now : Nat) (left : List Poll)
  | timeout (s : State) (now : Nat) (left : List Poll)
  /-- The polls given ran out before either: the read still waits. -/
  | waiting (s : State)
  | stopped
  deriving DecidableEq, Repr

/-- Wait for an output with an elapsed-time budget (R221, R233), over the polls in order. -/
def awaitOutput (stop : Output → Bool) (start budget : Nat) : List Poll → State → ReadEnd
  | [], s => .waiting s
  | (now, available) :: polls, s =>
    match pumpUntil stop available s with
    | some (t, some (o, rest)) => .success o t now ((now, rest) :: polls)
    | some (t, none) => if budget ≤ now - start then .timeout t now polls else awaitOutput stop start budget polls t
    | none => .stopped

/-- Blocking read with an elapsed-time budget (R221, R233). -/
def blockingRead (start budget : Nat) (polls : List Poll) (s : State) : ReadEnd :=
  awaitOutput Output.isSuccess start budget polls s

/-- Warm-up gating (R224). -/
structure WarmUp where
  initTime : Nat
  interval : Nat
  ready : Bool
  deriving DecidableEq, Repr

/-- Asking for readiness at a time: latched once the interval has elapsed (R224).  DESIGN CHOICE (log 17), unsafe: the answer is
all there is of it, and no operation of the session is gated by it. -/
def WarmUp.ask (w : WarmUp) (now : Nat) : WarmUp :=
  { w with ready := w.ready || decide (w.initTime + w.interval ≤ now) }

/-- The SampleAccumulator of an averaging call: "running count and sum" (R225). -/
structure SampleAccumulator where
  count : Nat
  sum : Nat
  deriving DecidableEq, Repr

/-- A sample is accepted inside `[lo, hi)` and discarded outside (R225, R235). -/
def SampleAccumulator.take (lo hi : Nat) (a : SampleAccumulator) (x : Nat) : SampleAccumulator :=
  if lo ≤ x ∧ x < hi then { count := a.count + 1, sum := a.sum + x } else a

/-- Sum and count of the accepted samples, whose quotient is the mean (R225; its rounding is open, U7); no accepted sample is
the typed failure "no valid samples", never a number (R226, U1). -/
def SampleAccumulator.mean (a : SampleAccumulator) : Option (Nat × Nat) :=
  if a.count = 0 then none else some (a.sum, a.count)

/-- The average of samples already read (R225, R235). -/
def averageSamples (lo hi : Nat) (samples : List Nat) : Option (Nat × Nat) :=
  (samples.foldl (SampleAccumulator.take lo hi) { count := 0, sum := 0 }).mean

/-- The fixed values of an averaging call: each read's budget, the inter-sample delay, the plausible range (R225, U8). -/
structure Sampling where
  budget : Nat
  delay : Nat
  lo : Nat
  hi : Nat
  deriving DecidableEq, Repr

/-- How an averaging call ends (R225, R226). -/
inductive AverageEnd where
  | mean (sum count : Nat) (s : State)
  | noValidSamples (s : State)
  | waiting (s : State)
  | stopped
  deriving DecidableEq, Repr

/-- `N` sequential blocking reads with the inter-sample delay between them (R225).  Which value of the state a read yields is the
consumer's (R158).  DESIGN CHOICE (log 12), unsafe: a read that fails yields no sample, and the next one follows; between the reads the
host issues no event, neither SYNC_CLR nor FRM_ACK. -/
def sampleReads (q : Sampling) (sampleOf : State → Nat) :
    Nat → Nat → List Poll → State → SampleAccumulator → AverageEnd
  | 0, _, _, s, a =>
    match a.mean with
    | some (sum, count) => .mean sum count s
    | none => .noValidSamples s
  | n + 1, start, polls, s, a =>
    match blockingRead start q.budget polls s with
    | .success _ t now left =>
      sampleReads q sampleOf n (now + q.delay) (idleUntil (now + q.delay) left) t (a.take q.lo q.hi (sampleOf t))
    | .timeout t now left => sampleReads q sampleOf n (now + q.delay) (idleUntil (now + q.delay) left) t a
    | .waiting t => .waiting t
    | .stopped => .stopped

/-- Multi-sample averaging of `n` reads (R225): the accumulator is made for the call and dropped after it. -/
def averagedRead (q : Sampling) (sampleOf : State → Nat) (n start : Nat) (polls : List Poll) (s : State) : AverageEnd :=
  sampleReads q sampleOf n start polls s { count := 0, sum := 0 }

/-- The session's states (R229). -/
inductive SessionState where
  | uninitialized | initializing | ready | operating | closed | failed
  deriving DecidableEq, Repr

/-- What moves the session (R229): the host's own acts and clock, and an output of the block. -/
inductive SessionEvent where
  | openTransport | capabilityCheckFailed | output (o : Output) | initTimeout | serve | close
  deriving DecidableEq, Repr

/-- The session state machine (R229): READY is reached on the first `FRAME` or `MBRESULT(1, _)`.  An event that R229 gives no
move in a state leaves it.  DESIGN CHOICE (log 18), unsafe: the state gates no call, and `serve` stands for no call of its own. -/
def SessionState.next : SessionState → SessionEvent → SessionState
  | .uninitialized, .openTransport => .initializing
  | .initializing, .capabilityCheckFailed => .failed
  | .initializing, .initTimeout => .failed
  | .initializing, .output o => if o.isSuccess then .ready else .initializing
  | .ready, .serve => .operating
  | .operating, .close => .closed
  | st, _ => st

/-- Opening a session (R229, R281): the transport is opened and the capability checked; then RESET, the events of a probe, and
the wait for the first valid output within the initialization timeout.  DESIGN CHOICE (log 15), unsafe: the RESET comes after a
passed check, and a failed check leaves the block as it was. -/
def openSession (capable : Bool) (probe : List Instr) (start budget : Nat) (polls : List Poll) (s : State) :
    Option (SessionState × State) :=
  let st := SessionState.uninitialized.next .openTransport
  if capable then
    (nextOf (execAll (.reset :: probe) s)).bind fun t =>
      match blockingRead start budget polls t with
      | .success o u _ _ => some (st.next (.output o), u)
      | .timeout u _ _ => some (st.next .initTimeout, u)
      | .waiting u => some (st, u)
      | .stopped => none
  else some (st.next .capabilityCheckFailed, s)

end Sys2Proof.Machine
end

