-- ==== Sys2Proof/Machine/Exchange.lean ====
section
/-! DEFINITION. One Modbus exchange as the host drives it (44_host_session R227, R228), outside the block and not used by step.
DESIGN CHOICE (log 9, 13, 14, 16), unsafe. -/

namespace Sys2Proof.Machine

/-- The three kinds of exchange of R228 step 3. -/
inductive Exchange where
  /-- A read of `n` registers with function code `f`. -/
  | read (f reg n : Half)
  /-- A single write, with function code `WF`. -/
  | write (reg v : Half)
  /-- A fixed immediate buffer (R98), and whether its echo is to be checked (U5). -/
  | immediate (bytes : List Byte) (checkEcho : Bool)
  deriving DecidableEq, Repr

/-- The events that put the request into TXBUF (R228 step 3). -/
def Exchange.request (cfg : Config) : Exchange → List Instr
  | .read f reg n => (Pseudo.req f reg n).expand
  | .write reg v => (Pseudo.req (zext16 cfg.wf) reg v).expand
  | .immediate bytes _ => (Pseudo.loadTx bytes).expand

/-- The events that arm the collector (R228 step 3; `5 + 2N` by R96); none where no echo is to be checked. -/
def Exchange.expect : Exchange → List Instr
  | .read _ _ n => (Pseudo.expectCrc (5 + 2 * n)).expand
  | .write _ _ => Pseudo.expectEcho.expand
  | .immediate _ true => Pseudo.expectEcho.expand
  | .immediate _ false => []

/-- The host's events before the response to a read of `n` registers (R228 steps 2 and 3). -/
def readExchange (f reg n : Half) : List Instr :=
  Pseudo.selModbus.expand ++ (Pseudo.req f reg n).expand ++ (Pseudo.expectCrc (5 + 2 * n)).expand

/-- The host's events before the echo of a single write (R228 steps 2 and 3). -/
def writeExchange (wf reg v : Half) : List Instr :=
  Pseudo.selModbus.expand ++ (Pseudo.req wf reg v).expand ++ Pseudo.expectEcho.expand

/-- The bytes the host hands to the transport: `TXBUF[0 .. TXLEN−1]` (R230, R41). -/
def State.requestOut (s : State) : List Byte := s.txbuf.readBytes s.txLen.val

/-- The data of an `RDATA` output. -/
def Output.data? : Output → Option Half
  | .none => Option.none
  | .frame _ _ => Option.none
  | .mbresult _ _ => Option.none
  | .rdata v => some v

/-- An `MBRESULT` output (R228 step 5). -/
def Output.isResult : Output → Bool
  | .none => false
  | .frame _ _ => false
  | .mbresult _ _ => true
  | .rdata _ => false

/-- The `RD` events for some registers, and the data they output (R202). -/
def readRegs : List RegNum → State → Option (State × List Half)
  | [], s => some (s, [])
  | r :: rs, s =>
    (nextOf (exec (.rd r) s)).bind fun t =>
      (readRegs rs t).map fun p => (p.1, (outputsSince s t).filterMap Output.data? ++ p.2)

/-- The `RD` events for a run of byte registers. -/
def readBytesFrom (base count : Nat) (s : State) : Option (State × List Byte) :=
  (readRegs ((List.range count).map fun i => BitVec.ofNat 12 (base + i)) s).map fun p => (p.1, p.2.map lo8)

/-- Step 4: `RD` of TXLEN, then of `TXBUF[0 .. TXLEN−1]`. -/
def readRequest (s : State) : Option (State × List Byte) :=
  (readRegs [0x017] s).bind fun p => readBytesFrom 0x020 (p.2.headD 0).toNat p.1

/-- Step 6: `RD` of `RXBUF[3 .. n−3]`, with the `n` of R177. -/
def readData (s : State) : Option (State × List Byte) := readBytesFrom (0x100 + 3) (s.expectedLen - RSP_OVERHEAD) s

/-- The check of ENC_ERR after a `REQ`, by `RD` of STATUS; there is none after a `LOADTX` (R228 step 3). -/
def Exchange.encodeRejected (x : Exchange) (s : State) : Option (State × Bool) :=
  let check := (readRegs [0x002] s).map fun p => (p.1, (p.2.headD 0).getLsbD 5)
  match x with
  | .read _ _ _ => check
  | .write _ _ => check
  | .immediate _ _ => some (s, false)

/-- Steps 2 to 4, up to the bytes handed to `writeBytes`; `none` in their place where the encoder rejected the request.  DESIGN
CHOICE (log 16), unsafe: the host does not look whether a command or a write before step 4 was refused, MB_ARM among them. -/
def Exchange.prepare (x : Exchange) (s : State) : Option (State × Option (List Byte)) :=
  (nextOf (execAll (Pseudo.selModbus.expand ++ x.request s.cfg) s)).bind fun t =>
    (x.encodeRejected t).bind fun p =>
      if p.2 then some (p.1, none)
      else (nextOf (execAll x.expect p.1)).bind fun u => (readRequest u).map fun q => (q.1, some q.2)

/-- How an exchange ends for its caller, with the transport as it is left (R227, R228); nothing is retried. -/
inductive ExchangeEnd where
  /-- `MBRESULT(1, _)`, and the data of step 6. -/
  | valid (data : List Byte) (s : State) (port : Transport)
  /-- `MBRESULT(0, fail)`. -/
  | invalid (s : State) (port : Transport)
  /-- The encoder rejected the request (`ENC_ERR = 1`); nothing was sent. -/
  | rejected (s : State) (port : Transport)
  /-- An immediate buffer was sent and its echo is not checked. -/
  | sent (s : State) (port : Transport)
  /-- The budget passed first, and the host issued MB_ABORT. -/
  | timeout (s : State) (port : Transport)
  /-- The polls given ran out before either. -/
  | waiting (s : State)
  | stopped
  deriving DecidableEq, Repr

/-- Steps 5 and 6: pump until `MBRESULT`, abort at the budget (R184), and read the data of a valid response. -/
def concludeExchange (start budget : Nat) (port : Transport) (s : State) : ExchangeEnd :=
  match awaitOutput Output.isResult start budget port.polls s with
  | .success o t _ left =>
    if o.isSuccess then
      match readData t with
      | some (u, data) => .valid data u { port with polls := left }
      | none => .stopped
    else .invalid t { port with polls := left }
  | .timeout t _ left =>
    match nextOf (exec .cmdMbAbort t) with
    | some u => .timeout u { port with polls := left }
    | none => .stopped
  | .waiting t => .waiting t
  | .stopped => .stopped

/-- One round trip, the six steps of R228 (R227). -/
def roundTrip (x : Exchange) (start budget : Nat) (port : Transport) (s : State) : ExchangeEnd :=
  let port := port.flushInput start
  match x.prepare s with
  | none => .stopped
  | some (t, none) => .rejected t port
  | some (t, some bytes) =>
    let port := port.writeBytes bytes
    match x with
    | .read _ _ _ => concludeExchange start budget port t
    | .write _ _ => concludeExchange start budget port t
    | .immediate _ true => concludeExchange start budget port t
    | .immediate _ false => .sent t port

end Sys2Proof.Machine
end

