-- ==== Sys2Proof/Safety.lean ====
section
/-! DEFINITION. What a safe run keeps: the invariants R44 and R45 and those the state rules derive, and the comparisons the
statements are written with. -/

namespace Sys2Proof.Machine

/-- The bytes of the frame in progress that CFD_SUM covers (R29, R44). -/
def State.acceptedBytes (s : State) : List Byte :=
  match s.cfdSt with
  | .seekHeader0 => []
  | .seekHeader1 => [HDR0]
  | .readLenHi => [HDR0, HDR1]
  | .readLenLo => [HDR0, HDR1, hi8 s.cfdLen]
  | .readPayload => [HDR0, HDR1, hi8 s.cfdLen, lo8 s.cfdLen] ++ s.pay.readBytes (s.cfdIdx.toNat - 4)
  | .readChecksumHi | .readChecksumLo =>
    [HDR0, HDR1, hi8 s.cfdLen, lo8 s.cfdLen] ++ s.pay.readBytes (s.cfdLen.toNat - 2)

/-- What holds in every state reachable from reset. -/
structure State.Inv (s : State) : Prop where
  /-- R44, columns CFD_IDX and CFD_LEN. -/
  position : s.cfdPositionOk = true
  /-- R44, column CFD_SUM (R29). -/
  sum : s.cfdSum = sum16 s.acceptedBytes
  /-- R44, column CFD_CKH. -/
  checksumHigh : s.cfdSt ≠ .readChecksumLo → s.cfdCkh = 0
  /-- R33: FRM_LEN is 20 or 28, or 0 if none was ever emitted. -/
  frmLen : s.frmLen = 0 ∨ s.frmLen = 20 ∨ s.frmLen = 28
  /-- R33: FRM_DATA is 0 from `FRM_LEN − 2` on. -/
  frmTail : ∀ i, s.frmLen.toNat - 2 ≤ i → s.frmData.read i = 0
  /-- R34: FRM_VALID only after an emission. -/
  frmValid : s.frmValid = true → s.frmLen ≠ 0
  /-- R34: FRM_OVR is set only together with FRM_VALID. -/
  frmOvr : s.frmOvr = true → s.frmValid = true
  /-- R34: `MB_DONE = 1` implies `MB_OUT = 0`. -/
  doneNotOut : s.mbDone = true → s.mbOut = false
  /-- R35: `MB_VALID = 1` exactly when `MB_DONE = 1` and `MB_FAIL = 0`. -/
  valid : s.mbValid = (s.mbDone && decide (s.mbFail = 0))
  /-- R35, R45 (a): MB_FAIL is 0 until an exchange is judged. -/
  failOnlyDone : s.mbDone = false → s.mbFail = 0
  /-- R45 (a): `n` legal and `MB_IDX < n` while armed. -/
  armed : s.mbOut = true → s.expectedLenLegal = true ∧ s.mbIdx.toNat < s.expectedLen
  /-- R45 (b). -/
  runningCrc : s.mbOut = true → s.mbVmode = .crc →
    s.mbCrc = crc16 (s.rxbuf.readBytes (min s.mbIdx.toNat (s.expectedLen - 2)))
  /-- R179: in ECHO mode MB_CRC stays `0xFFFF`. -/
  echoCrc : s.mbOut = true → s.mbVmode = .echo → s.mbCrc = CRC_INIT
  /-- R39: MB_IDX is in 0..260. -/
  mbIdx : s.mbIdx.toNat ≤ MB_CAP
  /-- R36, R251, R252: a cause is recorded exactly while a discard is counted. -/
  discard : s.discCnt = 0 ↔ s.discCause = .none
  /-- The buffers keep their canonical form (R49). -/
  txbufWf : s.txbuf.wf TX_CAP = true
  frmDataWf : s.frmData.wf PAY_CAP = true
  rxbufWf : s.rxbuf.wf MB_CAP = true
  payWf : s.pay.wf PAY_CAP = true

/-- The seek state of R141 (PAY aside). -/
def State.Seeking (s : State) : Prop :=
  s.cfdSt = .seekHeader0 ∧ s.cfdIdx = 0 ∧ s.cfdSum = 0 ∧ s.cfdLen = 0 ∧ s.cfdCkh = 0

/-- The seven flags of STATUS (R34). -/
structure Flags where
  frmValid : Bool
  frmOvr : Bool
  mbOut : Bool
  mbDone : Bool
  mbValid : Bool
  encErr : Bool
  cfgErr : Bool
  deriving DecidableEq, Repr

/-- The flags of a state. -/
def State.flags (s : State) : Flags :=
  { frmValid := s.frmValid, frmOvr := s.frmOvr, mbOut := s.mbOut, mbDone := s.mbDone, mbValid := s.mbValid,
    encErr := s.encErr, cfgErr := s.cfgErr }

/-- Every byte of the hidden buffer PAY reads as before (R32). -/
def SamePay (s t : State) : Prop := ∀ i, t.pay.read i = s.pay.read i

/-- What one event leaves and writes: every register number but STATUS and those listed reads as before (R40, buffers
included, one byte a number); the seven flags are those given; the parameters and the rest of the run are as before; and the
outputs given, no more, were appended to the observation (R13). -/
structure Effect (s t : State) (rs : List RegNum) (flags : Flags) (outs : List Output) : Prop where
  regs : ∀ r, r ≠ 0x002 → r ∉ rs → hostRead t r = hostRead s r
  flags : t.flags = flags
  cfg : t.cfg = s.cfg
  input : t.input = s.input
  out : t.out = s.out ++ outs

/-- A refused access (R204): `CFG_ERR <- 1` and nothing else, output `none`. -/
def Refused (s : State) (r : Result) : Prop :=
  ∃ t, r = .next t ∧ Effect s t [] { s.flags with cfgErr := true } [.none] ∧ SamePay s t

/-- The numbers of TXBUF in the register map (R40). -/
def txbufRegs : List RegNum := (List.range TX_CAP).map fun i => BitVec.ofNat 12 (0x020 + i)

/-- The numbers of FRM_DATA in the register map (R40). -/
def frmDataRegs : List RegNum := (List.range PAY_CAP).map fun i => BitVec.ofNat 12 (0x040 + i)

/-- The numbers of RXBUF in the register map (R40). -/
def rxbufRegs : List RegNum := (List.range MB_CAP).map fun i => BitVec.ofNat 12 (0x100 + i)

/-- CFD_ST, CFD_IDX, CFD_SUM, CFD_LEN, CFD_CKH (R27 to R31). -/
def positionRegs : List RegNum := [0x004, 0x005, 0x006, 0x007, 0x008]

/-- DISC_CNT and DISC_CAUSE (R36). -/
def discardRegs : List RegNum := [0x009, 0x00A]

/-- MB_FAIL, MB_IDX, MB_CRC and RXBUF: what the collector writes, STATUS aside (R35, R39, R42). -/
def collectorRegs : List RegNum := [0x003, 0x015, 0x016] ++ rxbufRegs

/-- How many events of R5 an instruction stands for: one, or one `RX` a byte of a wire frame. -/
def eventCount : Instr → Nat
  | .reset | .rx _ | .wr _ _ | .rd _ => 1
  | .cmdNop | .cmdSyncClr | .cmdFrmAck | .cmdDiagClr | .cmdFlagClr | .cmdMbEncode | .cmdMbArm | .cmdMbAbort => 1
  | .tframe20 p _ | .tframe28 p _ => p.length + 6
  | .mbreqReadA _ _ _ | .mbreqReadB _ _ _ | .mbreqWrite _ _ _ => REQ_LEN

end Sys2Proof.Machine
end

