-- ==== Sys2Proof/Certificates/Slice0/Obligations.lean ====
section
/-! DEFINITION. The statements for the provers, from the numbered rules of spec/. -/

open Sys2Proof Sys2Proof.Machine

/-- R81, R84, R90, R93: words and frames written out from the spec's encodings decode to what they stand for. -/
def Obligations.WrittenOutWordsDecode : Prop :=
  decode Config.default (.word 0x00000000) = .ok .reset ∧
  decode Config.default (.word 0x10000042) = .ok (.rx 0x42) ∧
  decode Config.default (.word 0x20110003) = .ok (.wr 0x011 0x0003) ∧
  decode Config.default (.word 0x30020000) = .ok (.rd 0x002) ∧
  decode Config.default (.word 0x20010010) = .ok .cmdMbEncode ∧
  decode Config.default (.word 0x20010110) = .ok (.wr 0x001 0x0110) ∧
  decode Config.default (.frame [0xFE, 0x04, 0x00, 0x03, 0x00, 0x01, 0xD5, 0xC5]) = .ok (.mbreqReadB 0x0003 0x0001 0xC5D5) ∧
  decode Config.default (.frame [0x42, 0x4D, 0x00, 0x14, 0x00, 0x0A, 0x00, 0x19, 0x00, 0x1E, 0x00, 0x09, 0x00, 0x16, 0x00, 0x1C,
    0x00, 0x00, 0x00, 0x00, 0x00, 0x00, 0x01, 0x1F]) =
    .ok (.tframe20 [0x00, 0x0A, 0x00, 0x19, 0x00, 0x1E, 0x00, 0x09, 0x00, 0x16, 0x00, 0x1C, 0x00, 0x00, 0x00, 0x00, 0x00, 0x00]
      0x011F)

/-- R81, R84, R90, R93, R108: decoding an encoded well-formed instruction gives it back, with every operand. -/
def Obligations.DecodeOfEncode : Prop :=
  ∀ (cfg : Config) (i : Instr), cfg.Distinct → i.wellFormed = true → decode cfg (encode cfg i) = .ok i

/-- R81, R82: what decodes to an instruction is that instruction's encoding, bit for bit, and the instruction is
well-formed. -/
def Obligations.EncodeOfDecode : Prop :=
  ∀ (cfg : Config) (t : Token) (i : Instr), decode cfg t = .ok i → encode cfg i = t ∧ i.wellFormed = true

/-- R82: step refuses the next event word by name exactly where its KIND is `0x4 .. 0xF` or a "must be 0" field of its format
(R81) is not 0. -/
def Obligations.ReservedWordsRefusedByName : Prop :=
  ∀ (s : State) (w : EventWord) (rest : List Token), s.input = .word w :: rest →
    (step s = .refused .reservedEventWord ↔
      4 ≤ w.toNat / 2 ^ 28 ∨
      (w.toNat / 2 ^ 28 = 0 ∧ w.toNat ≠ 0) ∨
      (w.toNat / 2 ^ 28 = 1 ∧ w.toNat / 2 ^ 8 % 2 ^ 20 ≠ 0) ∨
      (w.toNat / 2 ^ 28 = 3 ∧ w.toNat % 2 ^ 16 ≠ 0))

/-- R66, R70: a step takes the next item of the run and is the execution of the instruction it decodes to, the item gone from
the run; a placed table word is the next item.  That the run stands in the state (log 2), and that a step changes nothing where it
is exhausted (log 8), are the model's choices. -/
def Obligations.StepRunsDecoded : Prop :=
  (∀ (s : State) (t : Token) (rest : List Token) (i : Instr), s.input = t :: rest → decode s.cfg t = .ok i →
    step s = exec i { s with input := rest }) ∧
  (∀ (s : State) (nbits w : Nat) (i : Instr), decode s.cfg (tokenOfTableWord s.cfg nbits w) = .ok i →
    step (s.withFetchWord nbits w) = exec i s) ∧
  (∀ s : State, s.input = [] → step s = .next s)

/-- R200, R46, R280: after RESET, and at power-on, every register reads 0 but MB_CRC, PAY is all 0 and CFD is in the seek state;
the parameters are not touched; the output is `none`. -/
def Obligations.ResetRestoresEverything : Prop :=
  (∀ cfg, decode cfg (.word 0x00000000) = .ok .reset) ∧
  (∀ s : State, ∃ t, exec .reset s = .next t ∧
    (∀ r, hostRead t r = if r = 0x016 then 0xFFFF else 0) ∧ (∀ i, t.pay.read i = 0) ∧ t.Seeking ∧ t.rxsel = false ∧
    t.cfg = s.cfg ∧ t.input = s.input ∧ t.out = s.out ++ [.none]) ∧
  (∀ r, hostRead State.reset r = if r = 0x016 then 0xFFFF else 0) ∧ (∀ i, State.reset.pay.read i = 0) ∧ State.reset.Seeking

/-- R126: a message with its own CRC appended, low byte first, has CRC 0; and the source's vector of R124. -/
def Obligations.AppendedCrcVanishes : Prop :=
  crc16 [0xFE, 0x04, 0x00, 0x03, 0x00, 0x01] = 0xC5D5 ∧
  ∀ m : List Byte, crc16 (m ++ [lo8 (crc16 m), hi8 (crc16 m)]) = 0x0000

/-- R128: the sum of an admissible frame never reaches the modulus, and has the bounds given. -/
def Obligations.AdmissibleSumsAreBounded : Prop :=
  ∀ p : List Byte,
    (p.length = 18 → (sum16 ([0x42, 0x4D, 0x00, 0x14] ++ p)).toNat = 0xA3 + (p.map BitVec.toNat).sum ∧
      (sum16 ([0x42, 0x4D, 0x00, 0x14] ++ p)).toNat ≤ 4753) ∧
    (p.length = 26 → (sum16 ([0x42, 0x4D, 0x00, 0x1C] ++ p)).toNat = 0xAB + (p.map BitVec.toNat).sum ∧
      (sum16 ([0x42, 0x4D, 0x00, 0x1C] ++ p)).toNat ≤ 6801)

/-- R129 (b), and more: changing one byte of the summed bytes to any other value changes the sum.  (c): swapping two does not. -/
def Obligations.SumDetectsOneByteNotSwaps : Prop :=
  (∀ (m : List Byte) (i : Nat) (x : Byte), i < m.length → m[i]? ≠ some x → sum16 (m.set i x) ≠ sum16 m) ∧
  (∀ (p q r : List Byte) (x y : Byte), sum16 (p ++ [x] ++ q ++ [y] ++ r) = sum16 (p ++ [y] ++ q ++ [x] ++ r))

/-- R143, R144, R252: a byte in S0 and in S1. -/
def Obligations.HeaderBytes : Prop :=
  ∀ (s : State) (b : Byte), s.rxsel = false → s.cfdPositionOk = true →
    (s.cfdSt = .seekHeader0 → ∃ t, exec (.rx b) s = .next t ∧ SamePay s t ∧
      if b = 0x42 then
        Effect s t [0x004, 0x005, 0x006] s.flags [.none] ∧ t.cfdSt = .seekHeader1 ∧ t.cfdIdx = 1 ∧ t.cfdSum = 0x0042
      else Effect s t [] s.flags [.none]) ∧
    (s.cfdSt = .seekHeader1 → ∃ t, exec (.rx b) s = .next t ∧ SamePay s t ∧
      if b = 0x4D then
        Effect s t [0x004, 0x005, 0x006] s.flags [.none] ∧ t.cfdSt = .readLenHi ∧ t.cfdIdx = 2 ∧
          t.cfdSum.toNat = (s.cfdSum.toNat + 0x4D) % 65536
      else
        Effect s t (positionRegs ++ discardRegs) s.flags [.none] ∧ t.Seeking ∧
          t.discCnt.toNat = min (s.discCnt.toNat + 1) 0xFFFF ∧ t.discCause = .badHeader1)

/-- R145, R146, R252: a byte in S2 and in S3; the compare is of all 16 bits with 20 and 28. -/
def Obligations.LengthBytes : Prop :=
  ∀ (s : State) (b : Byte), s.rxsel = false → s.cfdPositionOk = true →
    (s.cfdSt = .readLenHi → ∃ t, exec (.rx b) s = .next t ∧ SamePay s t ∧
      Effect s t [0x004, 0x005, 0x006, 0x007] s.flags [.none] ∧ t.cfdSt = .readLenLo ∧ t.cfdIdx = 3 ∧
      t.cfdLen.toNat = b.toNat * 256 ∧ t.cfdSum.toNat = (s.cfdSum.toNat + b.toNat) % 65536) ∧
    (s.cfdSt = .readLenLo → ∃ t, exec (.rx b) s = .next t ∧ SamePay s t ∧
      if s.cfdLen.toNat / 256 * 256 + b.toNat = 20 ∨ s.cfdLen.toNat / 256 * 256 + b.toNat = 28 then
        Effect s t [0x004, 0x005, 0x006, 0x007] s.flags [.none] ∧ t.cfdSt = .readPayload ∧ t.cfdIdx = 4 ∧
          t.cfdLen.toNat = s.cfdLen.toNat / 256 * 256 + b.toNat ∧ t.cfdSum.toNat = (s.cfdSum.toNat + b.toNat) % 65536
      else
        Effect s t (positionRegs ++ discardRegs) s.flags [.none] ∧ t.Seeking ∧
          t.discCnt.toNat = min (s.discCnt.toNat + 1) 0xFFFF ∧ t.discCause = .badLength)

/-- R147: a byte in S4 is stored at `CFD_IDX − 4` of PAY and nowhere else, summed and counted; the last one moves to S5. -/
def Obligations.PayloadByte : Prop :=
  ∀ (s : State) (b : Byte), s.rxsel = false → s.cfdPositionOk = true → s.cfdSt = .readPayload →
    ∃ t, exec (.rx b) s = .next t ∧ Effect s t [0x004, 0x005, 0x006] s.flags [.none] ∧
      (∀ j, t.pay.read j = if j = s.cfdIdx.toNat - 4 then b else s.pay.read j) ∧
      t.cfdSum.toNat = (s.cfdSum.toNat + b.toNat) % 65536 ∧ t.cfdIdx.toNat = s.cfdIdx.toNat + 1 ∧
      (t.cfdSt = if s.cfdIdx.toNat + 1 = s.cfdLen.toNat + 2 then .readChecksumHi else .readPayload)

/-- R148, R149, R127, R252: a byte in S5 and in S6; the frame is latched, flagged and emitted exactly on a match of both
checksum bytes. -/
def Obligations.ChecksumBytes : Prop :=
  ∀ (s : State) (b : Byte), s.rxsel = false → s.cfdPositionOk = true →
    (s.cfdSt = .readChecksumHi → ∃ t, exec (.rx b) s = .next t ∧ SamePay s t ∧
      Effect s t [0x004, 0x005, 0x008] s.flags [.none] ∧ t.cfdSt = .readChecksumLo ∧ t.cfdCkh = b ∧
      t.cfdIdx.toNat = s.cfdIdx.toNat + 1) ∧
    (s.cfdSt = .readChecksumLo → ∃ t, exec (.rx b) s = .next t ∧ SamePay s t ∧ t.Seeking ∧
      if s.cfdCkh.toNat * 256 + b.toNat = s.cfdSum.toNat then
        Effect s t (positionRegs ++ 0x00B :: frmDataRegs)
            { s.flags with frmValid := true, frmOvr := s.frmOvr || s.frmValid }
            [.frame s.cfdLen ((List.range (s.cfdLen.toNat - 2)).map s.pay.read)] ∧
          t.frmLen = s.cfdLen ∧
          ∀ i < 26, t.frmData.read i = if i < s.cfdLen.toNat - 2 then s.pay.read i else 0x00
      else
        Effect s t (positionRegs ++ discardRegs) s.flags [.none] ∧
          t.discCnt.toNat = min (s.discCnt.toNat + 1) 0xFFFF ∧ t.discCause = .badChecksum)

/-- U14 (log 4, 5): the states the spec gives no behaviour stop, each under its own name. -/
def Obligations.UnreachableStatesFault : Prop :=
  ∀ (s : State) (b : Byte),
    (s.rxsel = false → s.cfdPositionOk = false → exec (.rx b) s = .fault .cfdPositionOffTable) ∧
    (s.rxsel = true → s.mbOut = true → (s.expectedLenLegal = false ∨ s.expectedLen ≤ s.mbIdx.toNat ∨ s.mbDone = true) →
      exec (.rx b) s = .fault .collectorUnreachable)

/-- R154, for both frame kinds: from the seek state a well-formed frame gives output `none` for every byte but the last and
`FRAME` with its own payload for the last, is latched, and ends in the seek state, everything else (DISC_CNT too) as it was.
That a frame row means its bytes arriving is
the model's choice (log 7). -/
def Obligations.WellFormedFrameEmitted : Prop :=
  ∀ (s : State) (p : List Byte), s.rxsel = false → s.Seeking →
    (p.length = 18 → ∃ t, exec (.tframe20 p (sum16 ([0x42, 0x4D, 0x00, 0x14] ++ p))) s = .next t ∧ t.Seeking ∧
      Effect s t (0x00B :: frmDataRegs) { s.flags with frmValid := true, frmOvr := s.frmOvr || s.frmValid }
        (List.replicate 23 .none ++ [.frame 20 p]) ∧
      t.frmLen = 20 ∧ (∀ i < 26, t.frmData.read i = p.getD i 0x00) ∧
      ∀ i, t.pay.read i = if i < 18 then p.getD i 0x00 else s.pay.read i) ∧
    (p.length = 26 → ∃ t, exec (.tframe28 p (sum16 ([0x42, 0x4D, 0x00, 0x1C] ++ p))) s = .next t ∧ t.Seeking ∧
      Effect s t (0x00B :: frmDataRegs) { s.flags with frmValid := true, frmOvr := s.frmOvr || s.frmValid }
        (List.replicate 31 .none ++ [.frame 28 p]) ∧
      t.frmLen = 28 ∧ (∀ i < 26, t.frmData.read i = p.getD i 0x00) ∧
      ∀ i, t.pay.read i = if i < 26 then p.getD i 0x00 else s.pay.read i)

/-- R99, R158: after a well-formed frame the words of the latched frame are its payload's bytes in pairs, big-endian: 9 for
`len = 20`, 13 for `len = 28`.  That a frame row means its bytes arriving is the model's choice (log 7). -/
def Obligations.PayloadWordsAreBigEndian : Prop :=
  ∀ (s : State) (p : List Byte), s.rxsel = false → s.Seeking →
    (p.length = 18 → ∃ t, exec (.tframe20 p (sum16 ([0x42, 0x4D, 0x00, 0x14] ++ p))) s = .next t ∧
      t.payloadWords.map BitVec.toNat = (List.range 9).map fun k => (p.getD (2 * k) 0).toNat * 256 + (p.getD (2 * k + 1) 0).toNat) ∧
    (p.length = 26 → ∃ t, exec (.tframe28 p (sum16 ([0x42, 0x4D, 0x00, 0x1C] ++ p))) s = .next t ∧
      t.payloadWords.map BitVec.toNat = (List.range 13).map fun k => (p.getD (2 * k) 0).toNat * 256 + (p.getD (2 * k + 1) 0).toNat)

/-- R157, and more: a frame with any wrong checksum emits nothing, ends in the seek state and counts one discard with cause 3;
the last good frame is kept.  That a frame row means its bytes arriving is the model's choice (log 7). -/
def Obligations.CorruptChecksumDiscarded : Prop :=
  ∀ (s : State) (p : List Byte) (c : Half), s.rxsel = false → s.Seeking →
    (p.length = 18 → c ≠ sum16 ([0x42, 0x4D, 0x00, 0x14] ++ p) → ∃ t, exec (.tframe20 p c) s = .next t ∧ t.Seeking ∧
      Effect s t discardRegs s.flags (List.replicate 24 .none) ∧
      t.discCnt.toNat = min (s.discCnt.toNat + 1) 0xFFFF ∧ t.discCause = .badChecksum ∧
      ∀ i, t.pay.read i = if i < 18 then p.getD i 0x00 else s.pay.read i) ∧
    (p.length = 26 → c ≠ sum16 ([0x42, 0x4D, 0x00, 0x1C] ++ p) → ∃ t, exec (.tframe28 p c) s = .next t ∧ t.Seeking ∧
      Effect s t discardRegs s.flags (List.replicate 32 .none) ∧
      t.discCnt.toNat = min (s.discCnt.toNat + 1) 0xFFFF ∧ t.discCause = .badChecksum ∧
      ∀ i, t.pay.read i = if i < 26 then p.getD i 0x00 else s.pay.read i)

/-- R155: a well-formed frame between two noise sequences free of `0x42` is emitted, and it alone; the decoder ends in the seek
state with no discard counted. -/
def Obligations.OneFrameInNoise : Prop :=
  ∀ (s : State) (before after p : List Byte) (lenLo : Byte), s.rxsel = false → s.Seeking →
    0x42 ∉ before → 0x42 ∉ after →
    ((lenLo = 0x14 ∧ p.length = 18) ∨ (lenLo = 0x1C ∧ p.length = 26)) →
    ∃ t, feedBytes (before ++ telemetryBytes lenLo p (sum16 ([0x42, 0x4D, 0x00, lenLo] ++ p)) ++ after) s = .next t ∧
      t.Seeking ∧ t.discCnt = s.discCnt ∧ t.discCause = s.discCause ∧
      t.out = s.out ++ List.replicate (before.length + p.length + 5) .none ++
        [.frame (cat16 0x00 lenLo) p] ++ List.replicate after.length .none

/-- R156: once CFD has left S0 it is back in the seek state within 31 further bytes, whatever they are. -/
def Obligations.BackInSeekWithin31Bytes : Prop :=
  ∀ (s : State) (bs : List Byte), s.rxsel = false → s.cfdPositionOk = true → s.cfdSt ≠ .seekHeader0 → bs.length = 31 →
    ∃ k, 1 ≤ k ∧ k ≤ 31 ∧ ∃ t, feedBytes (bs.take k) s = .next t ∧ t.Seeking

/-- R24, R142: a byte changes only the unit RXSEL selects: MFC's registers, MB flags included, keep their values with
`RXSEL = 0`, and CFD's, FRM flags, latched frame and PAY included, with `RXSEL = 1`. -/
def Obligations.OneUnitReceivesAByte : Prop :=
  ∀ (s t : State) (b : Byte), exec (.rx b) s = .next t →
    (s.rxsel = false → (∀ r, r ≠ 0x002 → r ∉ positionRegs ++ discardRegs ++ 0x00B :: frmDataRegs → hostRead t r = hostRead s r) ∧
      t.flags = { s.flags with frmValid := t.frmValid, frmOvr := t.frmOvr }) ∧
    (s.rxsel = true → (∀ r, r ≠ 0x002 → r ∉ collectorRegs → hostRead t r = hostRead s r) ∧ SamePay s t ∧
      t.flags = { s.flags with mbOut := t.mbOut, mbDone := t.mbDone, mbValid := t.mbValid })

/-- R150: the only traces of a malformed frame are DISC_CNT and DISC_CAUSE: a byte to CFD that emits no frame changes no flag and
no register but the position registers and those two. -/
def Obligations.MalformedInputLeavesOnlyDiagnostics : Prop :=
  ∀ (s : State) (b : Byte), s.rxsel = false → s.cfdPositionOk = true →
    ∃ t o, exec (.rx b) s = .next t ∧ t.out = s.out ++ [o] ∧
      (o = .none → Effect s t (positionRegs ++ discardRegs) s.flags [.none] ∧
        ((t.discCnt = s.discCnt ∧ t.discCause = s.discCause) ∨
          (t.Seeking ∧ t.discCnt.toNat = min (s.discCnt.toNat + 1) 0xFFFF ∧ t.discCause ≠ .none)))

/-- R206, R151, R152, R207, R208, R184: the six commands that are never refused, with their event words. -/
def Obligations.HousekeepingCommands : Prop :=
  (∀ cfg, decode cfg (.word 0x20010000) = .ok .cmdNop ∧ decode cfg (.word 0x20010001) = .ok .cmdSyncClr ∧
    decode cfg (.word 0x20010002) = .ok .cmdFrmAck ∧ decode cfg (.word 0x20010003) = .ok .cmdDiagClr ∧
    decode cfg (.word 0x20010004) = .ok .cmdFlagClr ∧ decode cfg (.word 0x20010012) = .ok .cmdMbAbort) ∧
  ∀ s : State,
    (∃ t, exec .cmdNop s = .next t ∧ SamePay s t ∧ Effect s t [] s.flags [.none]) ∧
    (∃ t, exec .cmdSyncClr s = .next t ∧ SamePay s t ∧ Effect s t positionRegs s.flags [.none] ∧ t.Seeking) ∧
    (∃ t, exec .cmdFrmAck s = .next t ∧ SamePay s t ∧
      Effect s t [] { s.flags with frmValid := false, frmOvr := false } [.none]) ∧
    (∃ t, exec .cmdDiagClr s = .next t ∧ SamePay s t ∧ Effect s t discardRegs s.flags [.none] ∧
      t.discCnt = 0 ∧ t.discCause = .none) ∧
    (∃ t, exec .cmdFlagClr s = .next t ∧ SamePay s t ∧
      Effect s t [] { s.flags with encErr := false, cfgErr := false } [.none]) ∧
    (∃ t, exec .cmdMbAbort s = .next t ∧ SamePay s t ∧ Effect s t [] { s.flags with mbOut := false } [.none])

/-- R205, R84: a `WR` to CMD is the command with that opcode, compared on all 16 bits; every other value is refused, and CMD
reads 0. -/
def Obligations.CommandDispatch : Prop :=
  ∀ s : State, hostRead s 0x001 = 0 ∧
    exec (.wr 0x001 0x0000) s = exec .cmdNop s ∧ exec (.wr 0x001 0x0001) s = exec .cmdSyncClr s ∧
    exec (.wr 0x001 0x0002) s = exec .cmdFrmAck s ∧ exec (.wr 0x001 0x0003) s = exec .cmdDiagClr s ∧
    exec (.wr 0x001 0x0004) s = exec .cmdFlagClr s ∧ exec (.wr 0x001 0x0010) s = exec .cmdMbEncode s ∧
    exec (.wr 0x001 0x0011) s = exec .cmdMbArm s ∧ exec (.wr 0x001 0x0012) s = exec .cmdMbAbort s ∧
    ∀ v : Half, v ∉ [0x0000, 0x0001, 0x0002, 0x0003, 0x0004, 0x0010, 0x0011, 0x0012] → Refused s (exec (.wr 0x001 v) s)

/-- R170, R171, R172, R255 (c): an encodable request is built in TXBUF, CRC low byte first, and is the wire frame of its kind
(R93, R94); one that is not encodable sets ENC_ERR and nothing else; while `MB_OUT = 1` the command is refused and ENC_ERR is not
touched. -/
def Obligations.EncodeBuildsTheRequest : Prop :=
  (∀ cfg, decode cfg (.word 0x20010010) = .ok .cmdMbEncode) ∧
  ∀ (s : State) (legal : Prop),
    (legal ↔ (s.mbFunc = s.cfg.rfA ∨ s.mbFunc = s.cfg.rfB) ∧ 1 ≤ s.mbVal.toNat ∨ s.mbFunc = s.cfg.wf) →
    (s.mbOut = false → legal →
      ∃ t c, exec .cmdMbEncode s = .next t ∧ SamePay s t ∧
        Effect s t (0x017 :: txbufRegs) { s.flags with encErr := false } [.none] ∧ t.txLen = 8 ∧
        c = crc16 [s.cfg.devAddr, s.mbFunc, hi8 s.mbReg, lo8 s.mbReg, hi8 s.mbVal, lo8 s.mbVal] ∧
        t.txbuf.readBytes 8 =
          [s.cfg.devAddr, s.mbFunc, hi8 s.mbReg, lo8 s.mbReg, hi8 s.mbVal, lo8 s.mbVal, lo8 c, hi8 c] ∧
        (s.cfg.Distinct → decode s.cfg (.frame (t.txbuf.readBytes 8)) =
          .ok (if s.mbFunc = s.cfg.rfA then .mbreqReadA s.mbReg s.mbVal c
            else if s.mbFunc = s.cfg.rfB then .mbreqReadB s.mbReg s.mbVal c
            else .mbreqWrite s.mbReg s.mbVal c))) ∧
    (s.mbOut = false → ¬ legal →
      ∃ t, exec .cmdMbEncode s = .next t ∧ SamePay s t ∧ Effect s t [] { s.flags with encErr := true } [.none]) ∧
    (s.mbOut = true → Refused s (exec .cmdMbEncode s))

/-- R175, R176: MB_ARM arms exactly where it is legal, and is refused everywhere else. -/
def Obligations.ArmExactlyWhenLegal : Prop :=
  (∀ cfg, decode cfg (.word 0x20010011) = .ok .cmdMbArm) ∧
  ∀ s : State,
    if s.mbOut = false ∧ ((s.mbVmode = .crc ∧ 5 ≤ s.mbExpLen.toNat ∧ s.mbExpLen.toNat ≤ 260) ∨
        (s.mbVmode = .echo ∧ 1 ≤ s.txLen.val ∧ s.txLen.val ≤ 8)) then
      ∃ t, exec .cmdMbArm s = .next t ∧ SamePay s t ∧
        Effect s t [0x003, 0x015, 0x016] { s.flags with mbOut := true, mbDone := false, mbValid := false } [.none] ∧
        t.mbFail = 0 ∧ t.mbIdx = 0 ∧ t.mbCrc = 0xFFFF
    else Refused s (exec .cmdMbArm s)

/-- R178, R179: a byte to the collector that does not complete the exchange: dropped while not armed; stored at `MB_IDX` of RXBUF
and nowhere else, counted, and folded into MB_CRC exactly in CRC mode below index `n − 2`. -/
def Obligations.CollectorByte : Prop :=
  ∀ (s : State) (b : Byte), s.rxsel = true →
    (s.mbOut = false → ∃ t, exec (.rx b) s = .next t ∧ SamePay s t ∧ Effect s t [] s.flags [.none]) ∧
    (s.mbOut = true → s.mbDone = false → s.expectedLenLegal = true → s.mbIdx.toNat + 1 < s.expectedLen →
      ∃ t, exec (.rx b) s = .next t ∧ SamePay s t ∧ Effect s t (0x015 :: 0x016 :: rxbufRegs) s.flags [.none] ∧
        t.mbIdx.toNat = s.mbIdx.toNat + 1 ∧
        (t.mbCrc = if s.mbVmode = .crc ∧ s.mbIdx.toNat + 2 < s.expectedLen then crcStep s.mbCrc b else s.mbCrc) ∧
        ∀ j, t.rxbuf.read j = if j = s.mbIdx.toNat then b else s.rxbuf.read j)

/-- R180, R182, R183 in CRC mode, R181, R182 in ECHO mode: the byte that completes an exchange. -/
def Obligations.CompletionVerdict : Prop :=
  ∀ (s : State) (b : Byte) (B : Nat → Byte), s.rxsel = true → s.mbOut = true → s.mbDone = false →
    s.expectedLenLegal = true → s.mbIdx.toNat + 1 = s.expectedLen →
    (∀ j, B j = if j = s.mbIdx.toNat then b else s.rxbuf.read j) →
    ∃ t valid, exec (.rx b) s = .next t ∧ SamePay s t ∧
      Effect s t (0x003 :: 0x015 :: rxbufRegs)
        { s.flags with mbOut := false, mbDone := true, mbValid := valid } [.mbresult valid t.mbFail] ∧
      (valid = true ↔ t.mbFail = 0) ∧ t.mbIdx.toNat = s.expectedLen ∧ t.mbCrc = s.mbCrc ∧ (∀ j, t.rxbuf.read j = B j) ∧
      (s.mbVmode = .crc →
        (t.mbFail.getLsbD 0 = true ↔
          ¬ (B (s.expectedLen - 2) = lo8 (crc16 ((List.range (s.expectedLen - 2)).map B)) ∧
             B (s.expectedLen - 1) = hi8 (crc16 ((List.range (s.expectedLen - 2)).map B)))) ∧
        (t.mbFail.getLsbD 1 = true ↔ B 0 ≠ s.cfg.devAddr) ∧
        (t.mbFail.getLsbD 2 = true ↔ B 1 ≠ s.cfg.rfA ∧ B 1 ≠ s.cfg.rfB) ∧
        (t.mbFail.getLsbD 3 = true ↔ (B 2).toNat ≠ s.expectedLen - 5) ∧
        t.mbFail.getLsbD 4 = false) ∧
      (s.mbVmode = .echo →
        (t.mbFail.getLsbD 4 = true ↔ ∃ i < s.expectedLen, B i ≠ s.txbuf.read i) ∧
        t.mbFail.getLsbD 0 = false ∧ t.mbFail.getLsbD 1 = false ∧ t.mbFail.getLsbD 2 = false ∧ t.mbFail.getLsbD 3 = false)

/-- R178 to R182: a whole response, from a freshly armed collector in CRC mode: `none` for every byte but the last, the verdict
of R180 on the bytes themselves, `MB_CRC` their CRC, RXBUF the bytes. -/
def Obligations.WholeResponseJudged : Prop :=
  ∀ (s : State) (bs : List Byte), s.rxsel = true → s.mbOut = true → s.mbDone = false → s.mbVmode = .crc →
    s.expectedLenLegal = true → s.mbIdx = 0 → s.mbCrc = 0xFFFF → bs.length = s.expectedLen →
    ∃ t valid, feedBytes bs s = .next t ∧ SamePay s t ∧
      Effect s t collectorRegs { s.flags with mbOut := false, mbDone := true, mbValid := valid }
        (List.replicate (bs.length - 1) .none ++ [.mbresult valid t.mbFail]) ∧
      t.mbIdx.toNat = bs.length ∧ t.mbCrc = crc16 (bs.take (bs.length - 2)) ∧
      (∀ i < bs.length, t.rxbuf.read i = bs.getD i 0) ∧
      (valid = true ↔
        bs.drop (bs.length - 2) = [lo8 (crc16 (bs.take (bs.length - 2))), hi8 (crc16 (bs.take (bs.length - 2)))] ∧
        bs.getD 0 0 = s.cfg.devAddr ∧ (bs.getD 1 0 = s.cfg.rfA ∨ bs.getD 1 0 = s.cfg.rfB) ∧
        (bs.getD 2 0).toNat = bs.length - 5)

/-- R185 (a), R228: from any state with no request outstanding, the exchange of R228 for `N` registers followed by a response of
`2N` data bytes with its CRC completes with `MBRESULT(1, 0)`, and `TXBUF[0 .. TXLEN−1]` is the whole request that was to be sent, its
8 bytes with their CRC. -/
def Obligations.ReadExchangeRoundTrip : Prop :=
  ∀ (s : State) (f : Byte) (reg n : Half) (data head request : List Byte),
    s.mbOut = false → (f = s.cfg.rfA ∨ f = s.cfg.rfB) → 1 ≤ n.toNat → 5 + 2 * n.toNat ≤ 260 → data.length = 2 * n.toNat →
    head = [s.cfg.devAddr, f, lo8 (2 * n)] ++ data → request = [s.cfg.devAddr, f, hi8 reg, lo8 reg, hi8 n, lo8 n] →
    ∃ t, andThen (execAll (readExchange (zext16 f) reg n) s)
        (feedBytes (head ++ [lo8 (crc16 head), hi8 (crc16 head)])) = .next t ∧
      t.mbDone = true ∧ t.mbValid = true ∧ t.mbFail = 0 ∧ t.mbOut = false ∧ t.encErr = false ∧
      t.out.getLast? = some (.mbresult true 0) ∧
      t.txLen = 8 ∧ t.requestOut = request ++ [lo8 (crc16 request), hi8 (crc16 request)] ∧
      (∀ i < data.length, t.rxbuf.read (3 + i) = data.getD i 0)

/-- R97, R181, R185 (b): the request in TXBUF, arriving as its own echo at a collector freshly armed in ECHO mode, completes
with `MBRESULT(1, 0)`, whatever its CRC; for each of the three request kinds.  RXBUF holds the request from index 0 and is
otherwise as before.  That a request row means its bytes arriving is the
model's choice (log 7). -/
def Obligations.EchoOfTheRequestIsValid : Prop :=
  ∀ (s : State) (reg val crc : Half), s.rxsel = true → s.mbOut = true → s.mbDone = false → s.mbVmode = .echo →
    s.txLen = 8 → s.mbIdx = 0 →
    ∀ p ∈ [(Instr.mbreqReadA reg val crc, s.cfg.rfA), (Instr.mbreqReadB reg val crc, s.cfg.rfB),
        (Instr.mbreqWrite reg val crc, s.cfg.wf)],
      s.txbuf.readBytes 8 = requestBytes s.cfg.devAddr p.2 reg val crc →
      ∃ t, exec p.1 s = .next t ∧ SamePay s t ∧
        Effect s t collectorRegs { s.flags with mbOut := false, mbDone := true, mbValid := true }
          (List.replicate 7 .none ++ [.mbresult true 0]) ∧
        t.mbFail = 0 ∧ t.mbIdx = 8 ∧ t.mbCrc = s.mbCrc ∧
        ∀ j, t.rxbuf.read j = if j < 8 then (requestBytes s.cfg.devAddr p.2 reg val crc).getD j 0 else s.rxbuf.read j

/-- R185 (c): a correct request taken for a response of 8 bytes: its CRC and address pass, its function passes only for a read
code, its byte-count passes only where `MB_REG[15:8] = 3`.  That a request row means its bytes arriving is the model's choice
(log 7). -/
def Obligations.RequestIsNotAResponse : Prop :=
  ∀ (s : State) (reg val : Half), s.cfg.Distinct → s.rxsel = true → s.mbOut = true → s.mbDone = false → s.mbVmode = .crc →
    s.mbExpLen = 8 → s.mbIdx = 0 →
    ∀ p ∈ [(Instr.mbreqReadA, s.cfg.rfA), (Instr.mbreqReadB, s.cfg.rfB), (Instr.mbreqWrite, s.cfg.wf)],
      ∃ t valid, exec (p.1 reg val (crc16 [s.cfg.devAddr, p.2, hi8 reg, lo8 reg, hi8 val, lo8 val])) s = .next t ∧ SamePay s t ∧
        Effect s t collectorRegs { s.flags with mbOut := false, mbDone := true, mbValid := valid }
          (List.replicate 7 .none ++ [.mbresult valid t.mbFail]) ∧
        (valid = true ↔ t.mbFail = 0) ∧
        t.mbFail.getLsbD 0 = false ∧ t.mbFail.getLsbD 1 = false ∧
        (t.mbFail.getLsbD 2 = false ↔ p.2 ≠ s.cfg.wf) ∧ (t.mbFail.getLsbD 3 = false ↔ hi8 reg = 0x03) ∧
        t.mbFail.getLsbD 4 = false

/-- R201, R22: an accepted host write keeps the low bits of the register's own width and changes nothing else; TXLEN takes 0..8;
the registers without a lock take it while armed too. -/
def Obligations.HostWriteStores : Prop :=
  ∀ (s : State) (v : Half),
    (∀ p ∈ [((0x000 : RegNum), (0x0001 : Half)), (0x010, 0x00FF), (0x011, 0xFFFF), (0x012, 0xFFFF)],
      ∃ t, exec (.wr p.1 v) s = .next t ∧ SamePay s t ∧ Effect s t [p.1] s.flags [.none] ∧ hostRead t p.1 = v &&& p.2) ∧
    (s.mbOut = false →
      (∀ p ∈ [((0x013 : RegNum), (0x01FF : Half)), (0x014, 0x0001)] ++ txbufRegs.map (fun r => (r, (0x00FF : Half))),
        ∃ t, exec (.wr p.1 v) s = .next t ∧ SamePay s t ∧ Effect s t [p.1] s.flags [.none] ∧ hostRead t p.1 = v &&& p.2) ∧
      (v.toNat ≤ 8 →
        ∃ t, exec (.wr 0x017 v) s = .next t ∧ SamePay s t ∧ Effect s t [0x017] s.flags [.none] ∧ hostRead t 0x017 = v))

/-- R204 (1) to (4), R201: a write to a read-only or an unmapped register number, to TXLEN above 8, and to a locked register while
`MB_OUT = 1`, is refused. -/
def Obligations.HostWriteRefused : Prop :=
  ∀ (s : State) (r : RegNum) (v : Half),
    ((0x002 ≤ r ∧ r < 0x010) ∨ r = 0x015 ∨ r = 0x016 ∨ (0x018 ≤ r ∧ r < 0x020) ∨ 0x028 ≤ r ∨
      (r = 0x017 ∧ 8 < v.toNat) ∨
      (s.mbOut = true ∧ (r = 0x013 ∨ r = 0x014 ∨ r = 0x017 ∨ (0x020 ≤ r ∧ r < 0x028)))) →
    Refused s (exec (.wr r v) s)

/-- R202: what `RD` outputs, register by register (R40, R34), with the codes of R27, R36 and R38, and that it changes
nothing. -/
def Obligations.HostReadOutputs : Prop :=
  (∀ (cfg : Config) (r : RegNum), decode cfg (.word (BitVec.ofNat 32 (0x30000000 + r.toNat * 65536))) = .ok (.rd r)) ∧
  ∀ (s : State) (r : RegNum), ∃ t v, exec (.rd r) s = .next t ∧ SamePay s t ∧ Effect s t [] s.flags [.rdata v] ∧
    (r = 0x000 → v.toNat = s.rxsel.toNat) ∧
    (r = 0x002 → v.toNat = s.frmValid.toNat + 2 * s.frmOvr.toNat + 4 * s.mbOut.toNat + 8 * s.mbDone.toNat +
      16 * s.mbValid.toNat + 32 * s.encErr.toNat + 64 * s.cfgErr.toNat) ∧
    (r = 0x003 → v.toNat = s.mbFail.toNat) ∧
    (r = 0x004 → v.toNat = match s.cfdSt with
      | .seekHeader0 => 0 | .seekHeader1 => 1 | .readLenHi => 2 | .readLenLo => 3 | .readPayload => 4
      | .readChecksumHi => 5 | .readChecksumLo => 6) ∧
    (r = 0x005 → v.toNat = s.cfdIdx.toNat) ∧ (r = 0x006 → v = s.cfdSum) ∧ (r = 0x007 → v = s.cfdLen) ∧
    (r = 0x008 → v.toNat = s.cfdCkh.toNat) ∧ (r = 0x009 → v = s.discCnt) ∧
    (r = 0x00A → v.toNat = match s.discCause with | .none => 0 | .badHeader1 => 1 | .badLength => 2 | .badChecksum => 3) ∧
    (r = 0x00B → v = s.frmLen) ∧ (r = 0x010 → v.toNat = s.mbFunc.toNat) ∧ (r = 0x011 → v = s.mbReg) ∧
    (r = 0x012 → v = s.mbVal) ∧ (r = 0x013 → v.toNat = s.mbExpLen.toNat) ∧
    (r = 0x014 → v.toNat = match s.mbVmode with | .crc => 0 | .echo => 1) ∧
    (r = 0x015 → v.toNat = s.mbIdx.toNat) ∧ (r = 0x016 → v = s.mbCrc) ∧ (r = 0x017 → v.toNat = s.txLen.val) ∧
    (∀ i < 8, r.toNat = 0x020 + i → v.toNat = (s.txbuf.read i).toNat) ∧
    (∀ i < 26, r.toNat = 0x040 + i → v.toNat = (s.frmData.read i).toNat) ∧
    (∀ i < 260, r.toNat = 0x100 + i → v.toNat = (s.rxbuf.read i).toNat) ∧
    (r = 0x001 ∨ (0x00C ≤ r ∧ r ≤ 0x00F) ∨ (0x018 ≤ r ∧ r ≤ 0x01F) ∨ (0x028 ≤ r ∧ r ≤ 0x03F) ∨ (0x05A ≤ r ∧ r ≤ 0x0FF) ∨
      0x204 ≤ r → v = 0)

/-- R43, over all instructions: an exchange that is still outstanding after an instruction has the request it had before. -/
def Obligations.RequestSlotLockedWhileOutstanding : Prop :=
  ∀ (i : Instr) (s t : State), s.mbOut = true → exec i s = .next t → t.mbOut = true →
    t.txLen = s.txLen ∧ t.mbExpLen = s.mbExpLen ∧ t.mbVmode = s.mbVmode ∧ ∀ j, t.txbuf.read j = s.txbuf.read j

/-- R43: while `MB_OUT = 1` a write to the request slot and the commands MB_ENCODE and MB_ARM are refused, MB_ABORT is not, and a
byte leaves the slot as it was. -/
def Obligations.LockedAccessesRefused : Prop :=
  ∀ (s : State) (v : Half), s.mbOut = true →
    (∀ r ∈ [0x013, 0x014, 0x017] ++ txbufRegs, Refused s (exec (.wr r v) s)) ∧
    Refused s (exec .cmdMbEncode s) ∧ Refused s (exec .cmdMbArm s) ∧
    (∃ t, exec .cmdMbAbort s = .next t ∧ t.mbOut = false ∧ t.cfgErr = s.cfgErr) ∧
    ∀ (b : Byte) (t : State), exec (.rx b) s = .next t →
      t.txLen = s.txLen ∧ t.mbExpLen = s.mbExpLen ∧ t.mbVmode = s.mbVmode ∧ ∀ j, t.txbuf.read j = s.txbuf.read j

/-- R35, R42, R45 (d), R182: over all instructions, a judged exchange stays judged but by RESET and MB_ARM, and keeps its
verdict, its byte count, its CRC and its bytes for as long as it does. -/
def Obligations.JudgedExchangeIsKept : Prop :=
  ∀ (i : Instr) (s t : State), s.mbDone = true → exec i s = .next t →
    (i ≠ .reset → i ≠ .cmdMbArm → i ≠ .wr 0x001 0x0011 → t.mbDone = true) ∧
    (t.mbDone = true →
      t.mbIdx = s.mbIdx ∧ t.mbFail = s.mbFail ∧ t.mbValid = s.mbValid ∧ t.mbCrc = s.mbCrc ∧
        ∀ j, t.rxbuf.read j = s.rxbuf.read j)

/-- R13, R233: only bytes emit `FRAME` and `MBRESULT`: every other event outputs `none`, or `RDATA` for a read. -/
def Obligations.OnlyBytesEmitResults : Prop :=
  ∀ (i : Instr) (s : State),
    i ∈ [.reset, .cmdNop, .cmdSyncClr, .cmdFrmAck, .cmdDiagClr, .cmdFlagClr, .cmdMbEncode, .cmdMbArm, .cmdMbAbort] ∨
      (∃ r v, i = .wr r v) ∨ (∃ r, i = .rd r) →
    ∃ t o, exec i s = .next t ∧ t.out = s.out ++ [o] ∧ ((∃ r, i = .rd r) → ∃ v, o = .rdata v) ∧
      ((¬ ∃ r, i = .rd r) → o = .none)

/-- R33: over all instructions but RESET, FRM_LEN and FRM_DATA change only where a frame is emitted. -/
def Obligations.LatchedFrameOnlyByEmission : Prop :=
  ∀ (i : Instr) (s t : State), i ≠ .reset → exec i s = .next t → (∀ o ∈ outputsSince s t, o.isFrame = false) →
    t.frmLen = s.frmLen ∧ ∀ j, t.frmData.read j = s.frmData.read j

/-- R204, R34: CFG_ERR is sticky: only FLAG_CLR and RESET clear it; and only a `WR` or a command sets it. -/
def Obligations.CfgErrIsSticky : Prop :=
  ∀ (i : Instr) (s t : State), exec i s = .next t →
    (s.cfgErr = true → t.cfgErr = false → i = .reset ∨ i = .cmdFlagClr ∨ i = .wr 0x001 0x0004) ∧
    (s.cfgErr = false → t.cfgErr = true → i = .cmdMbEncode ∨ i = .cmdMbArm ∨ ∃ r v, i = .wr r v)

/-- R44, R45, R33 to R36: the invariant holds after reset. -/
def Obligations.InvariantAtReset : Prop := State.reset.Inv

/-- R44, R45, R33 to R36: every step keeps the invariant, from every state that meets it. -/
def Obligations.StepKeepsInvariant : Prop := ∀ s t : State, s.Inv → step s = .next t → t.Inv

/-- R209: from every state of the invariant every instruction has a next state, which meets the invariant, with one output an
event; it never faults and never refuses.  R209 speaks of the events: that the five wire frame rows complete too, with one
output a byte, is so by the model's choice that a frame row means its bytes arriving (log 7). -/
def Obligations.EveryInstructionCompletes : Prop :=
  ∀ (i : Instr) (s : State), s.Inv →
    ∃ t, exec i s = .next t ∧ t.Inv ∧ t.cfg = s.cfg ∧ t.input = s.input ∧
      ∃ os, t.out = s.out ++ os ∧ os.length = eventCount i

/-- R233, R221: with no byte available, a blocking read never succeeds, and fails at the first poll at or past its budget, not
before.  That the clock is read at polls given as an argument, that the budget is tested there, after the bytes, and that a read
whose polls run out is still waiting, are the model's choice (log 9). -/
def Obligations.EmptyBlockingReadTimesOutAtBudget : Prop :=
  ∀ (start budget : Nat) (times : List Nat) (s : State),
    blockingRead start budget (times.map fun now => (now, [])) s =
      match times.dropWhile fun now => decide (now - start < budget) with
      | [] => .waiting s
      | now :: later => .timeout s now (later.map fun now => (now, []))

/-- R222: a non-blocking read of any bytes, from a state of the invariant with CFD selected and no frame unacknowledged, always
ends, and reports whether FRM_VALID rose. -/
def Obligations.NonBlockingReadReportsFrmValid : Prop :=
  ∀ (s : State) (available : List Byte), s.Inv → s.rxsel = false → s.frmValid = false →
    ∃ t, nonBlockingRead available s = some (t, t.frmValid)

/-- R224 (log 9, 17): asked at any times, readiness is false until the interval has elapsed, and true from then on. -/
def Obligations.WarmUpLatches : Prop :=
  ∀ (w : WarmUp) (times : List Nat), w.ready = false →
    ((times.foldl WarmUp.ask w).ready = true ↔ ∃ now ∈ times, w.initTime + w.interval ≤ now)

/-- R225, R226 (log 9): averaging takes the samples inside the bounds and no others; with none accepted it is the typed failure. -/
def Obligations.AveragingTakesAcceptedSamples : Prop :=
  ∀ (lo hi : Nat) (samples : List Nat),
    (averageSamples lo hi samples = none ↔ ∀ x ∈ samples, x < lo ∨ hi ≤ x) ∧
    ∀ sum count, averageSamples lo hi samples = some (sum, count) →
      count = samples.countP (fun x => decide (lo ≤ x) && decide (x < hi)) ∧ 1 ≤ count ∧
      sum = (samples.map fun x => if lo ≤ x ∧ x < hi then x else 0).sum

/-- R121, R124: `crc16` is the bit recurrence of R121 from 0xFFFF, byte by byte; the source's vector, with the value after each
byte, and the order of its two bytes on the wire. -/
def Obligations.Crc16IsTheBitRecurrence : Prop :=
  crc16 [] = 0xFFFF ∧
  (∀ (m : List Byte) (b : Byte), crc16 (m ++ [b]) =
    (List.range 8).foldl (fun (c : Half) _ => if c.toNat % 2 = 1 then (c >>> 1) ^^^ 0xA001 else c >>> 1) (crc16 m ^^^ b.setWidth 16)) ∧
  (List.range 7).map (fun k => crc16 ([0xFE, 0x04, 0x00, 0x03, 0x00, 0x01].take k)) =
    [0xFFFF, 0xC03E, 0x1340, 0xF012, 0x0C30, 0x140C, 0xC5D5] ∧
  lo8 0xC5D5 = 0xD5 ∧ hi8 0xC5D5 = 0xC5

/-- R228 for a read (log 9, 13; that the request is written in full, whatever count `writeBytes` reports, is the model's choice,
log 14): what arrived before the round trip is flushed; the whole request is written; a response of `2N`
data bytes ends it with the data of `RXBUF[3 .. n−3]`, and the bytes after it stay with the transport. -/
def Obligations.RoundTripDeliversTheData : Prop :=
  ∀ (s : State) (f : Byte) (reg n : Half) (data head extra request written : List Byte) (start budget now : Nat)
    (stale later : List Poll),
    s.mbOut = false → (f = s.cfg.rfA ∨ f = s.cfg.rfB) → 1 ≤ n.toNat → 5 + 2 * n.toNat ≤ 260 → data.length = 2 * n.toNat →
    head = [s.cfg.devAddr, f, lo8 (2 * n)] ++ data → request = [s.cfg.devAddr, f, hi8 reg, lo8 reg, hi8 n, lo8 n] →
    1 ≤ budget → (∀ q ∈ stale, q.1 ≤ start) → start < now → (∀ q ∈ later, start < q.1) →
    ∃ t, roundTrip (.read (zext16 f) reg n) start budget
        { polls := stale ++ (now, head ++ [lo8 (crc16 head), hi8 (crc16 head)] ++ extra) :: later, written := written } s =
      .valid data t
        { polls := (now, extra) :: later, written := written ++ request ++ [lo8 (crc16 request), hi8 (crc16 request)] } ∧
      t.mbOut = false ∧ t.mbDone = true ∧ t.mbValid = true ∧ t.mbFail = 0 ∧ t.encErr = false

/-- R228 step 5, R227, R184 (log 9, 13; that the request is written in full, whatever count `writeBytes` reports, is the model's
choice, log 14): a read or a write to which nothing answers is sent, times out at the first poll at or
past the budget, and leaves the exchange aborted: nothing outstanding and nothing judged. -/
def Obligations.SilentExchangeIsAborted : Prop :=
  ∀ (s : State) (x : Exchange) (f : Byte) (reg v : Half) (request written : List Byte) (start budget now : Nat)
    (before : List Nat) (later : List Poll),
    s.mbOut = false →
    ((x = .read (zext16 f) reg v ∧ (f = s.cfg.rfA ∨ f = s.cfg.rfB) ∧ 1 ≤ v.toNat ∧ 5 + 2 * v.toNat ≤ 260) ∨
      (x = .write reg v ∧ f = s.cfg.wf)) →
    request = [s.cfg.devAddr, f, hi8 reg, lo8 reg, hi8 v, lo8 v] →
    (∀ time ∈ before, time - start < budget) → start + budget ≤ now → (∀ q ∈ later, start < q.1) →
    ∃ t, roundTrip x start budget
        { polls := before.map (fun time => (time, [])) ++ (now, []) :: later, written := written } s =
      .timeout t { polls := later, written := written ++ request ++ [lo8 (crc16 request), hi8 (crc16 request)] } ∧
      t.mbOut = false ∧ t.mbDone = false ∧ t.mbIdx = 0 ∧ (∀ j, t.rxbuf.read j = s.rxbuf.read j)

/-- R228 step 3, R98, U5 (log 9, 13; that the buffer is written in full, whatever count `writeBytes` reports, is the model's
choice, log 14): an immediate buffer of 1 to 8 bytes is sent as it is, with no check of ENC_ERR, which may be
1 from before; without a check of its echo that is all; with one, its echo ends the exchange as valid. -/
def Obligations.ImmediateBufferExchange : Prop :=
  ∀ (s : State) (bytes written : List Byte) (start budget now : Nat),
    s.mbOut = false → 1 ≤ bytes.length → bytes.length ≤ 8 → start < now →
    (∃ t, roundTrip (.immediate bytes false) start budget { polls := [(now, bytes)], written := written } s =
        .sent t { polls := [(now, bytes)], written := written ++ bytes } ∧
      t.mbOut = false ∧ t.encErr = s.encErr) ∧
    (∃ t, roundTrip (.immediate bytes true) start budget { polls := [(now, bytes)], written := written } s =
        .valid ((bytes.drop 3).take (bytes.length - 5)) t { polls := [(now, [])], written := written ++ bytes } ∧
      t.mbOut = false ∧ t.mbValid = true ∧ t.encErr = s.encErr)

/-- R228 step 3, R172 (log 9, 13): a request that is not encodable ends its round trip before anything is written. -/
def Obligations.RejectedRequestIsNotSent : Prop :=
  ∀ (s : State) (f reg n : Half) (start budget : Nat) (port : Transport),
    s.mbOut = false →
    ¬ ((lo8 f = s.cfg.rfA ∨ lo8 f = s.cfg.rfB) ∧ 1 ≤ n.toNat ∨ lo8 f = s.cfg.wf) →
    ∃ t rest, roundTrip (.read f reg n) start budget port s = .rejected t rest ∧ rest.written = port.written ∧
      t.encErr = true ∧ t.mbOut = false ∧ t.txLen = s.txLen ∧ ∀ j, t.txbuf.read j = s.txbuf.read j

/-- R225, R221 (log 9, 12): `N` reads, with any delay between them, of `N` frames that have arrived take one frame each, in
order; the average is that of the values read, and with none accepted the typed failure (R226). -/
def Obligations.AveragedReadTakesOneFrameARead : Prop :=
  ∀ (s : State) (q : Sampling) (payloads : List (List Byte)) (k start : Nat),
    s.rxsel = false → s.Seeking → (∀ p ∈ payloads, p.length = 18) → k < 9 →
    ∃ t, t.Seeking ∧
      averagedRead q (fun t => (t.payloadWord k).toNat) payloads.length start
          [(start, payloads.flatMap fun p => telemetryBytes 0x14 p (sum16 ([0x42, 0x4D, 0x00, 0x14] ++ p)))] s =
        match averageSamples q.lo q.hi (payloads.map fun p => (p.getD (2 * k) 0).toNat * 256 + (p.getD (2 * k + 1) 0).toNat) with
        | some (sum, count) => .mean sum count t
        | none => .noValidSamples t

/-- R229 (log 9, 18): the session moves along the arrows of R229 and no others; it is ready exactly by the first `FRAME` or
`MBRESULT(1, _)` while initializing, and fails exactly by the capability check or the timeout there. -/
def Obligations.SessionMovesAreThoseOfR229 : Prop :=
  ∀ (st : SessionState) (e : SessionEvent),
    (st.next e ≠ st → (st, st.next e) ∈ [(.uninitialized, .initializing), (.initializing, .ready), (.initializing, .failed),
      (.ready, .operating), (.operating, .closed)]) ∧
    (SessionState.initializing.next e = .ready ↔
      ∃ o, e = .output o ∧ ((∃ len data, o = .frame len data) ∨ ∃ fail, o = .mbresult true fail)) ∧
    (SessionState.initializing.next e = .failed ↔ e = .capabilityCheckFailed ∨ e = .initTimeout)

/-- R229, R281 (log 9, 15): opening a session resets the block once the capability check has passed; a well-formed frame, or a
valid response to a probe, makes it ready; polls with no byte at all, one of them at or past the timeout, or a failed capability
check, make it fail. -/
def Obligations.SessionOpensOnTheFirstValidOutput : Prop :=
  ∀ (s : State) (start budget now : Nat) (later : List Poll),
    (∀ p : List Byte, p.length = 18 →
      ∃ t, openSession true [] start budget ((now, telemetryBytes 0x14 p (sum16 ([0x42, 0x4D, 0x00, 0x14] ++ p))) :: later) s =
        some (.ready, t) ∧ t.frmValid = true ∧ t.discCnt = 0 ∧ ∀ i < 18, t.frmData.read i = p.getD i 0) ∧
    (∀ (f : Byte) (reg n : Half) (data head : List Byte), (f = s.cfg.rfA ∨ f = s.cfg.rfB) → 1 ≤ n.toNat →
      5 + 2 * n.toNat ≤ 260 → data.length = 2 * n.toNat → head = [s.cfg.devAddr, f, lo8 (2 * n)] ++ data →
      ∃ t, openSession true (readExchange (zext16 f) reg n) start budget
          ((now, head ++ [lo8 (crc16 head), hi8 (crc16 head)]) :: later) s = some (.ready, t) ∧
        t.mbValid = true ∧ ∀ i < data.length, t.rxbuf.read (3 + i) = data.getD i 0) ∧
    (∀ times : List Nat, (∃ time ∈ times, start + budget ≤ time) →
      ∃ t, openSession true [] start budget (times.map fun time => (time, [])) s = some (.failed, t) ∧ t.Seeking) ∧
    (∀ probe polls, openSession false probe start budget polls s = some (.failed, s))
end

