-- ==== Sys2Proof/Laws/Integrity.lean ====
section
/-! SUPPORT. The integrity arithmetic: the incremental laws (R122, R125) and the halves of a 16-bit value. -/

namespace Sys2Proof.Machine

/-- R122. -/
theorem crc16_append (p q : List Byte) : crc16 (p ++ q) = q.foldl crcStep (crc16 p) := by simp [crc16]

theorem crc16_concat (p : List Byte) (b : Byte) : crc16 (p ++ [b]) = crcStep (crc16 p) b := by simp [crc16]

/-- R125, the step form. -/
theorem sum16_append (p q : List Byte) : sum16 (p ++ q) = q.foldl sumStep (sum16 p) := by simp [sum16]

theorem sum16_concat (p : List Byte) (b : Byte) : sum16 (p ++ [b]) = sumStep (sum16 p) b := by simp [sum16]

theorem sumStep_toNat (s : Half) (b : Byte) : (sumStep s b).toNat = (s.toNat + b.toNat) % 65536 := by
  have := b.isLt
  simp [sumStep, zext16, BitVec.toNat_add]

/-- R125: the sum is the sum of the bytes modulo 65536. -/
theorem sum16_toNat (m : List Byte) : (sum16 m).toNat = (m.map BitVec.toNat).sum % 65536 := by
  have aux : ∀ (m : List Byte) (s : Half), (m.foldl sumStep s).toNat = (s.toNat + (m.map BitVec.toNat).sum) % 65536 := by
    intro m
    induction m with
    | nil => intro s; simp; omega
    | cons b m ih =>
      intro s
      simp only [List.foldl_cons, ih, sumStep_toNat, List.map_cons, List.sum_cons]
      omega
  simpa [sum16] using aux m 0

theorem hi8_toNat (v : Half) : (hi8 v).toNat = v.toNat / 256 := by
  have := v.isLt
  simp [hi8, Nat.shiftRight_eq_div_pow]; omega

theorem lo8_toNat (v : Half) : (lo8 v).toNat = v.toNat % 256 := by simp [lo8]

theorem cat16_toNat (h l : Byte) : (cat16 h l).toNat = h.toNat * 256 + l.toNat := by
  unfold cat16
  rw [BitVec.toNat_append, ← Nat.shiftLeft_add_eq_or_of_lt l.isLt, Nat.shiftLeft_eq]

@[simp] theorem hi8_cat16 (h l : Byte) : hi8 (cat16 h l) = h := by
  apply BitVec.eq_of_toNat_eq; have := l.isLt; rw [hi8_toNat, cat16_toNat]; omega

@[simp] theorem lo8_cat16 (h l : Byte) : lo8 (cat16 h l) = l := by
  apply BitVec.eq_of_toNat_eq; have := l.isLt; rw [lo8_toNat, cat16_toNat]; omega

@[simp] theorem cat16_hi8_lo8 (v : Half) : cat16 (hi8 v) (lo8 v) = v := by
  apply BitVec.eq_of_toNat_eq; rw [cat16_toNat, hi8_toNat, lo8_toNat]; omega

end Sys2Proof.Machine
end

