-- ==== Sys2Proof/Laws/State.lean ====
section
/-! SUPPORT. One lemma a field and a named update of the state, each true by rfl. -/

namespace Sys2Proof.Machine

section
@[simp] theorem State.emit_cfg (s : State) (o : Output) : (s.emit o).cfg = s.cfg := rfl
@[simp] theorem State.emit_input (s : State) (o : Output) : (s.emit o).input = s.input := rfl
@[simp] theorem State.emit_out (s : State) (o : Output) : (s.emit o).out = s.out ++ [o] := rfl
@[simp] theorem State.emit_rxsel (s : State) (o : Output) : (s.emit o).rxsel = s.rxsel := rfl
@[simp] theorem State.emit_frmValid (s : State) (o : Output) : (s.emit o).frmValid = s.frmValid := rfl
@[simp] theorem State.emit_frmOvr (s : State) (o : Output) : (s.emit o).frmOvr = s.frmOvr := rfl
@[simp] theorem State.emit_mbOut (s : State) (o : Output) : (s.emit o).mbOut = s.mbOut := rfl
@[simp] theorem State.emit_mbDone (s : State) (o : Output) : (s.emit o).mbDone = s.mbDone := rfl
@[simp] theorem State.emit_mbValid (s : State) (o : Output) : (s.emit o).mbValid = s.mbValid := rfl
@[simp] theorem State.emit_encErr (s : State) (o : Output) : (s.emit o).encErr = s.encErr := rfl
@[simp] theorem State.emit_cfgErr (s : State) (o : Output) : (s.emit o).cfgErr = s.cfgErr := rfl
@[simp] theorem State.emit_mbFail (s : State) (o : Output) : (s.emit o).mbFail = s.mbFail := rfl
@[simp] theorem State.emit_cfdSt (s : State) (o : Output) : (s.emit o).cfdSt = s.cfdSt := rfl
@[simp] theorem State.emit_cfdIdx (s : State) (o : Output) : (s.emit o).cfdIdx = s.cfdIdx := rfl
@[simp] theorem State.emit_cfdSum (s : State) (o : Output) : (s.emit o).cfdSum = s.cfdSum := rfl
@[simp] theorem State.emit_cfdLen (s : State) (o : Output) : (s.emit o).cfdLen = s.cfdLen := rfl
@[simp] theorem State.emit_cfdCkh (s : State) (o : Output) : (s.emit o).cfdCkh = s.cfdCkh := rfl
@[simp] theorem State.emit_discCnt (s : State) (o : Output) : (s.emit o).discCnt = s.discCnt := rfl
@[simp] theorem State.emit_discCause (s : State) (o : Output) : (s.emit o).discCause = s.discCause := rfl
@[simp] theorem State.emit_frmLen (s : State) (o : Output) : (s.emit o).frmLen = s.frmLen := rfl
@[simp] theorem State.emit_mbFunc (s : State) (o : Output) : (s.emit o).mbFunc = s.mbFunc := rfl
@[simp] theorem State.emit_mbReg (s : State) (o : Output) : (s.emit o).mbReg = s.mbReg := rfl
@[simp] theorem State.emit_mbVal (s : State) (o : Output) : (s.emit o).mbVal = s.mbVal := rfl
@[simp] theorem State.emit_mbExpLen (s : State) (o : Output) : (s.emit o).mbExpLen = s.mbExpLen := rfl
@[simp] theorem State.emit_mbVmode (s : State) (o : Output) : (s.emit o).mbVmode = s.mbVmode := rfl
@[simp] theorem State.emit_mbIdx (s : State) (o : Output) : (s.emit o).mbIdx = s.mbIdx := rfl
@[simp] theorem State.emit_mbCrc (s : State) (o : Output) : (s.emit o).mbCrc = s.mbCrc := rfl
@[simp] theorem State.emit_txLen (s : State) (o : Output) : (s.emit o).txLen = s.txLen := rfl
@[simp] theorem State.emit_txbuf (s : State) (o : Output) : (s.emit o).txbuf = s.txbuf := rfl
@[simp] theorem State.emit_frmData (s : State) (o : Output) : (s.emit o).frmData = s.frmData := rfl
@[simp] theorem State.emit_rxbuf (s : State) (o : Output) : (s.emit o).rxbuf = s.rxbuf := rfl
@[simp] theorem State.emit_pay (s : State) (o : Output) : (s.emit o).pay = s.pay := rfl
end

section
@[simp] theorem State.cfdResync_cfg (s : State) : (s.cfdResync).cfg = s.cfg := rfl
@[simp] theorem State.cfdResync_input (s : State) : (s.cfdResync).input = s.input := rfl
@[simp] theorem State.cfdResync_out (s : State) : (s.cfdResync).out = s.out := rfl
@[simp] theorem State.cfdResync_rxsel (s : State) : (s.cfdResync).rxsel = s.rxsel := rfl
@[simp] theorem State.cfdResync_frmValid (s : State) : (s.cfdResync).frmValid = s.frmValid := rfl
@[simp] theorem State.cfdResync_frmOvr (s : State) : (s.cfdResync).frmOvr = s.frmOvr := rfl
@[simp] theorem State.cfdResync_mbOut (s : State) : (s.cfdResync).mbOut = s.mbOut := rfl
@[simp] theorem State.cfdResync_mbDone (s : State) : (s.cfdResync).mbDone = s.mbDone := rfl
@[simp] theorem State.cfdResync_mbValid (s : State) : (s.cfdResync).mbValid = s.mbValid := rfl
@[simp] theorem State.cfdResync_encErr (s : State) : (s.cfdResync).encErr = s.encErr := rfl
@[simp] theorem State.cfdResync_cfgErr (s : State) : (s.cfdResync).cfgErr = s.cfgErr := rfl
@[simp] theorem State.cfdResync_mbFail (s : State) : (s.cfdResync).mbFail = s.mbFail := rfl
@[simp] theorem State.cfdResync_cfdSt (s : State) : (s.cfdResync).cfdSt = .seekHeader0 := rfl
@[simp] theorem State.cfdResync_cfdIdx (s : State) : (s.cfdResync).cfdIdx = 0 := rfl
@[simp] theorem State.cfdResync_cfdSum (s : State) : (s.cfdResync).cfdSum = 0 := rfl
@[simp] theorem State.cfdResync_cfdLen (s : State) : (s.cfdResync).cfdLen = 0 := rfl
@[simp] theorem State.cfdResync_cfdCkh (s : State) : (s.cfdResync).cfdCkh = 0 := rfl
@[simp] theorem State.cfdResync_discCnt (s : State) : (s.cfdResync).discCnt = s.discCnt := rfl
@[simp] theorem State.cfdResync_discCause (s : State) : (s.cfdResync).discCause = s.discCause := rfl
@[simp] theorem State.cfdResync_frmLen (s : State) : (s.cfdResync).frmLen = s.frmLen := rfl
@[simp] theorem State.cfdResync_mbFunc (s : State) : (s.cfdResync).mbFunc = s.mbFunc := rfl
@[simp] theorem State.cfdResync_mbReg (s : State) : (s.cfdResync).mbReg = s.mbReg := rfl
@[simp] theorem State.cfdResync_mbVal (s : State) : (s.cfdResync).mbVal = s.mbVal := rfl
@[simp] theorem State.cfdResync_mbExpLen (s : State) : (s.cfdResync).mbExpLen = s.mbExpLen := rfl
@[simp] theorem State.cfdResync_mbVmode (s : State) : (s.cfdResync).mbVmode = s.mbVmode := rfl
@[simp] theorem State.cfdResync_mbIdx (s : State) : (s.cfdResync).mbIdx = s.mbIdx := rfl
@[simp] theorem State.cfdResync_mbCrc (s : State) : (s.cfdResync).mbCrc = s.mbCrc := rfl
@[simp] theorem State.cfdResync_txLen (s : State) : (s.cfdResync).txLen = s.txLen := rfl
@[simp] theorem State.cfdResync_txbuf (s : State) : (s.cfdResync).txbuf = s.txbuf := rfl
@[simp] theorem State.cfdResync_frmData (s : State) : (s.cfdResync).frmData = s.frmData := rfl
@[simp] theorem State.cfdResync_rxbuf (s : State) : (s.cfdResync).rxbuf = s.rxbuf := rfl
@[simp] theorem State.cfdResync_pay (s : State) : (s.cfdResync).pay = s.pay := rfl
end

section
@[simp] theorem State.raiseDiscard_cfg (s : State) (c : DiscCause) : (s.raiseDiscard c).cfg = s.cfg := rfl
@[simp] theorem State.raiseDiscard_input (s : State) (c : DiscCause) : (s.raiseDiscard c).input = s.input := rfl
@[simp] theorem State.raiseDiscard_out (s : State) (c : DiscCause) : (s.raiseDiscard c).out = s.out := rfl
@[simp] theorem State.raiseDiscard_rxsel (s : State) (c : DiscCause) : (s.raiseDiscard c).rxsel = s.rxsel := rfl
@[simp] theorem State.raiseDiscard_frmValid (s : State) (c : DiscCause) : (s.raiseDiscard c).frmValid = s.frmValid := rfl
@[simp] theorem State.raiseDiscard_frmOvr (s : State) (c : DiscCause) : (s.raiseDiscard c).frmOvr = s.frmOvr := rfl
@[simp] theorem State.raiseDiscard_mbOut (s : State) (c : DiscCause) : (s.raiseDiscard c).mbOut = s.mbOut := rfl
@[simp] theorem State.raiseDiscard_mbDone (s : State) (c : DiscCause) : (s.raiseDiscard c).mbDone = s.mbDone := rfl
@[simp] theorem State.raiseDiscard_mbValid (s : State) (c : DiscCause) : (s.raiseDiscard c).mbValid = s.mbValid := rfl
@[simp] theorem State.raiseDiscard_encErr (s : State) (c : DiscCause) : (s.raiseDiscard c).encErr = s.encErr := rfl
@[simp] theorem State.raiseDiscard_cfgErr (s : State) (c : DiscCause) : (s.raiseDiscard c).cfgErr = s.cfgErr := rfl
@[simp] theorem State.raiseDiscard_mbFail (s : State) (c : DiscCause) : (s.raiseDiscard c).mbFail = s.mbFail := rfl
@[simp] theorem State.raiseDiscard_cfdSt (s : State) (c : DiscCause) : (s.raiseDiscard c).cfdSt = .seekHeader0 := rfl
@[simp] theorem State.raiseDiscard_cfdIdx (s : State) (c : DiscCause) : (s.raiseDiscard c).cfdIdx = 0 := rfl
@[simp] theorem State.raiseDiscard_cfdSum (s : State) (c : DiscCause) : (s.raiseDiscard c).cfdSum = 0 := rfl
@[simp] theorem State.raiseDiscard_cfdLen (s : State) (c : DiscCause) : (s.raiseDiscard c).cfdLen = 0 := rfl
@[simp] theorem State.raiseDiscard_cfdCkh (s : State) (c : DiscCause) : (s.raiseDiscard c).cfdCkh = 0 := rfl
@[simp] theorem State.raiseDiscard_discCnt (s : State) (c : DiscCause) : (s.raiseDiscard c).discCnt = satInc s.discCnt := rfl
@[simp] theorem State.raiseDiscard_discCause (s : State) (c : DiscCause) : (s.raiseDiscard c).discCause = c := rfl
@[simp] theorem State.raiseDiscard_frmLen (s : State) (c : DiscCause) : (s.raiseDiscard c).frmLen = s.frmLen := rfl
@[simp] theorem State.raiseDiscard_mbFunc (s : State) (c : DiscCause) : (s.raiseDiscard c).mbFunc = s.mbFunc := rfl
@[simp] theorem State.raiseDiscard_mbReg (s : State) (c : DiscCause) : (s.raiseDiscard c).mbReg = s.mbReg := rfl
@[simp] theorem State.raiseDiscard_mbVal (s : State) (c : DiscCause) : (s.raiseDiscard c).mbVal = s.mbVal := rfl
@[simp] theorem State.raiseDiscard_mbExpLen (s : State) (c : DiscCause) : (s.raiseDiscard c).mbExpLen = s.mbExpLen := rfl
@[simp] theorem State.raiseDiscard_mbVmode (s : State) (c : DiscCause) : (s.raiseDiscard c).mbVmode = s.mbVmode := rfl
@[simp] theorem State.raiseDiscard_mbIdx (s : State) (c : DiscCause) : (s.raiseDiscard c).mbIdx = s.mbIdx := rfl
@[simp] theorem State.raiseDiscard_mbCrc (s : State) (c : DiscCause) : (s.raiseDiscard c).mbCrc = s.mbCrc := rfl
@[simp] theorem State.raiseDiscard_txLen (s : State) (c : DiscCause) : (s.raiseDiscard c).txLen = s.txLen := rfl
@[simp] theorem State.raiseDiscard_txbuf (s : State) (c : DiscCause) : (s.raiseDiscard c).txbuf = s.txbuf := rfl
@[simp] theorem State.raiseDiscard_frmData (s : State) (c : DiscCause) : (s.raiseDiscard c).frmData = s.frmData := rfl
@[simp] theorem State.raiseDiscard_rxbuf (s : State) (c : DiscCause) : (s.raiseDiscard c).rxbuf = s.rxbuf := rfl
@[simp] theorem State.raiseDiscard_pay (s : State) (c : DiscCause) : (s.raiseDiscard c).pay = s.pay := rfl
end

section
@[simp] theorem State.collect_cfg (s : State) (b : Byte) : (s.collect b).cfg = s.cfg := rfl
@[simp] theorem State.collect_input (s : State) (b : Byte) : (s.collect b).input = s.input := rfl
@[simp] theorem State.collect_out (s : State) (b : Byte) : (s.collect b).out = s.out := rfl
@[simp] theorem State.collect_rxsel (s : State) (b : Byte) : (s.collect b).rxsel = s.rxsel := rfl
@[simp] theorem State.collect_frmValid (s : State) (b : Byte) : (s.collect b).frmValid = s.frmValid := rfl
@[simp] theorem State.collect_frmOvr (s : State) (b : Byte) : (s.collect b).frmOvr = s.frmOvr := rfl
@[simp] theorem State.collect_mbOut (s : State) (b : Byte) : (s.collect b).mbOut = s.mbOut := rfl
@[simp] theorem State.collect_mbDone (s : State) (b : Byte) : (s.collect b).mbDone = s.mbDone := rfl
@[simp] theorem State.collect_mbValid (s : State) (b : Byte) : (s.collect b).mbValid = s.mbValid := rfl
@[simp] theorem State.collect_encErr (s : State) (b : Byte) : (s.collect b).encErr = s.encErr := rfl
@[simp] theorem State.collect_cfgErr (s : State) (b : Byte) : (s.collect b).cfgErr = s.cfgErr := rfl
@[simp] theorem State.collect_mbFail (s : State) (b : Byte) : (s.collect b).mbFail = s.mbFail := rfl
@[simp] theorem State.collect_cfdSt (s : State) (b : Byte) : (s.collect b).cfdSt = s.cfdSt := rfl
@[simp] theorem State.collect_cfdIdx (s : State) (b : Byte) : (s.collect b).cfdIdx = s.cfdIdx := rfl
@[simp] theorem State.collect_cfdSum (s : State) (b : Byte) : (s.collect b).cfdSum = s.cfdSum := rfl
@[simp] theorem State.collect_cfdLen (s : State) (b : Byte) : (s.collect b).cfdLen = s.cfdLen := rfl
@[simp] theorem State.collect_cfdCkh (s : State) (b : Byte) : (s.collect b).cfdCkh = s.cfdCkh := rfl
@[simp] theorem State.collect_discCnt (s : State) (b : Byte) : (s.collect b).discCnt = s.discCnt := rfl
@[simp] theorem State.collect_discCause (s : State) (b : Byte) : (s.collect b).discCause = s.discCause := rfl
@[simp] theorem State.collect_frmLen (s : State) (b : Byte) : (s.collect b).frmLen = s.frmLen := rfl
@[simp] theorem State.collect_mbFunc (s : State) (b : Byte) : (s.collect b).mbFunc = s.mbFunc := rfl
@[simp] theorem State.collect_mbReg (s : State) (b : Byte) : (s.collect b).mbReg = s.mbReg := rfl
@[simp] theorem State.collect_mbVal (s : State) (b : Byte) : (s.collect b).mbVal = s.mbVal := rfl
@[simp] theorem State.collect_mbExpLen (s : State) (b : Byte) : (s.collect b).mbExpLen = s.mbExpLen := rfl
@[simp] theorem State.collect_mbVmode (s : State) (b : Byte) : (s.collect b).mbVmode = s.mbVmode := rfl
@[simp] theorem State.collect_mbIdx (s : State) (b : Byte) : (s.collect b).mbIdx = s.mbIdx + 1 := rfl
@[simp] theorem State.collect_mbCrc (s : State) (b : Byte) : (s.collect b).mbCrc = if s.foldsCrc then crcStep s.mbCrc b else s.mbCrc := rfl
@[simp] theorem State.collect_txLen (s : State) (b : Byte) : (s.collect b).txLen = s.txLen := rfl
@[simp] theorem State.collect_txbuf (s : State) (b : Byte) : (s.collect b).txbuf = s.txbuf := rfl
@[simp] theorem State.collect_frmData (s : State) (b : Byte) : (s.collect b).frmData = s.frmData := rfl
@[simp] theorem State.collect_rxbuf (s : State) (b : Byte) : (s.collect b).rxbuf = s.rxbuf.write s.mbIdx.toNat b := rfl
@[simp] theorem State.collect_pay (s : State) (b : Byte) : (s.collect b).pay = s.pay := rfl
end

section
@[simp] theorem State.complete_cfg (s : State) : (s.complete).cfg = s.cfg := rfl
@[simp] theorem State.complete_input (s : State) : (s.complete).input = s.input := rfl
@[simp] theorem State.complete_out (s : State) : (s.complete).out = s.out ++ [.mbresult (decide (s.verdict = 0)) s.verdict] := rfl
@[simp] theorem State.complete_rxsel (s : State) : (s.complete).rxsel = s.rxsel := rfl
@[simp] theorem State.complete_frmValid (s : State) : (s.complete).frmValid = s.frmValid := rfl
@[simp] theorem State.complete_frmOvr (s : State) : (s.complete).frmOvr = s.frmOvr := rfl
@[simp] theorem State.complete_mbOut (s : State) : (s.complete).mbOut = false := rfl
@[simp] theorem State.complete_mbDone (s : State) : (s.complete).mbDone = true := rfl
@[simp] theorem State.complete_mbValid (s : State) : (s.complete).mbValid = decide (s.verdict = 0) := rfl
@[simp] theorem State.complete_encErr (s : State) : (s.complete).encErr = s.encErr := rfl
@[simp] theorem State.complete_cfgErr (s : State) : (s.complete).cfgErr = s.cfgErr := rfl
@[simp] theorem State.complete_mbFail (s : State) : (s.complete).mbFail = s.verdict := rfl
@[simp] theorem State.complete_cfdSt (s : State) : (s.complete).cfdSt = s.cfdSt := rfl
@[simp] theorem State.complete_cfdIdx (s : State) : (s.complete).cfdIdx = s.cfdIdx := rfl
@[simp] theorem State.complete_cfdSum (s : State) : (s.complete).cfdSum = s.cfdSum := rfl
@[simp] theorem State.complete_cfdLen (s : State) : (s.complete).cfdLen = s.cfdLen := rfl
@[simp] theorem State.complete_cfdCkh (s : State) : (s.complete).cfdCkh = s.cfdCkh := rfl
@[simp] theorem State.complete_discCnt (s : State) : (s.complete).discCnt = s.discCnt := rfl
@[simp] theorem State.complete_discCause (s : State) : (s.complete).discCause = s.discCause := rfl
@[simp] theorem State.complete_frmLen (s : State) : (s.complete).frmLen = s.frmLen := rfl
@[simp] theorem State.complete_mbFunc (s : State) : (s.complete).mbFunc = s.mbFunc := rfl
@[simp] theorem State.complete_mbReg (s : State) : (s.complete).mbReg = s.mbReg := rfl
@[simp] theorem State.complete_mbVal (s : State) : (s.complete).mbVal = s.mbVal := rfl
@[simp] theorem State.complete_mbExpLen (s : State) : (s.complete).mbExpLen = s.mbExpLen := rfl
@[simp] theorem State.complete_mbVmode (s : State) : (s.complete).mbVmode = s.mbVmode := rfl
@[simp] theorem State.complete_mbIdx (s : State) : (s.complete).mbIdx = s.mbIdx := rfl
@[simp] theorem State.complete_mbCrc (s : State) : (s.complete).mbCrc = s.mbCrc := rfl
@[simp] theorem State.complete_txLen (s : State) : (s.complete).txLen = s.txLen := rfl
@[simp] theorem State.complete_txbuf (s : State) : (s.complete).txbuf = s.txbuf := rfl
@[simp] theorem State.complete_frmData (s : State) : (s.complete).frmData = s.frmData := rfl
@[simp] theorem State.complete_rxbuf (s : State) : (s.complete).rxbuf = s.rxbuf := rfl
@[simp] theorem State.complete_pay (s : State) : (s.complete).pay = s.pay := rfl
end

end Sys2Proof.Machine
end

