-- ==== Sys2Proof/Laws/Feed.lean ====
section
/-! SUPPORT. What the shared operations can do, once each: refusing, the lock, sequencing, a byte's routing, the legal range
of an exchange, the fail mask, fetching. -/

namespace Sys2Proof.Machine

/-- R252, R36: the discard counter saturates. -/
theorem satInc_toNat (n : Half) : (satInc n).toNat = min (n.toNat + 1) 0xFFFF := by
  have := n.isLt
  unfold satInc DISC_MAX
  split
  · rename_i h; subst h; rfl
  · rename_i h
    have : n.toNat ≠ 65535 := fun h' => h (BitVec.eq_of_toNat_eq (by simpa using h'))
    simp [BitVec.toNat_add]; omega

theorem satInc_ne_zero (n : Half) : satInc n ≠ 0 := fun h => by
  have := satInc_toNat n
  rw [h, show (0 : Half).toNat = 0 from rfl] at this
  omega

@[simp] theorem unlessArmed_out {s : State} (k : State → Result) (h : s.mbOut = true) : unlessArmed s k = refuse s := by
  simp [unlessArmed, h]

@[simp] theorem unlessArmed_free {s : State} (k : State → Result) (h : s.mbOut = false) : unlessArmed s k = k s := by
  simp [unlessArmed, h]

@[simp] theorem andThen_next (s : State) (k : State → Result) : andThen (.next s) k = k s := rfl
@[simp] theorem andThen_fault (f : Fault) (k : State → Result) : andThen (.fault f) k = .fault f := rfl
@[simp] theorem andThen_refused (e : Refusal) (k : State → Result) : andThen (.refused e) k = .refused e := rfl

/-- A sequence answers a next state only through one of its first part. -/
theorem andThen_eq_next {r : Result} {k : State → Result} {t : State} (h : andThen r k = .next t) :
    ∃ u, r = .next u ∧ k u = .next t := by
  cases r with
  | next u => exact ⟨u, rfl, h⟩
  | fault f => cases h
  | refused e => cases h

@[simp] theorem feedBytes_nil (s : State) : feedBytes [] s = .next s := rfl

theorem feedBytes_cons (b : Byte) (bs : List Byte) (s : State) :
    feedBytes (b :: bs) s = andThen (execRx b s) (feedBytes bs) := rfl

/-- Bytes in two runs arrive as in one. -/
theorem feedBytes_append (p q : List Byte) (s : State) :
    feedBytes (p ++ q) s = andThen (feedBytes p s) (feedBytes q) := by
  induction p generalizing s with
  | nil => rfl
  | cons b p ih =>
    simp only [List.cons_append, feedBytes_cons]
    cases execRx b s <;> simp [ih]

/-- What every byte keeps, every run of bytes keeps. -/
theorem feedBytes_keeps (P : State → Prop) (h : ∀ b s t, P s → execRx b s = .next t → P t) (bs : List Byte) {s t : State}
    (hs : P s) (ht : feedBytes bs s = .next t) : P t := by
  induction bs generalizing s with
  | nil => cases ht; exact hs
  | cons b bs ih =>
    obtain ⟨u, hu, hv⟩ := andThen_eq_next ht
    exact ih (h b s u hs hu) hv

/-- R142: a byte routed to CFD. -/
theorem execRx_telemetry {s : State} (b : Byte) (h : s.rxsel = false) (hp : s.cfdPositionOk = true) :
    execRx b s = .next (cfdByte b s) := by
  simp [execRx, h, rxTelemetry, hp]

/-- R178: a byte to a collector that is not armed. -/
theorem execRx_dropped {s : State} (b : Byte) (h : s.rxsel = true) (ho : s.mbOut = false) :
    execRx b s = .next (s.emit .none) := by
  simp [execRx, h, rxCollector, ho]

/-- R178: a byte to an armed collector that does not complete the exchange. -/
theorem execRx_collects {s : State} (b : Byte) (h : s.rxsel = true) (ho : s.mbOut = true) (hd : s.mbDone = false)
    (hl : s.expectedLenLegal = true) (hi : s.mbIdx.toNat + 1 < s.expectedLen) :
    execRx b s = .next ((s.collect b).emit .none) := by
  have h1 : s.mbIdx.toNat < s.expectedLen := by omega
  have h2 : s.mbIdx.toNat + 1 ≠ s.expectedLen := by omega
  simp [execRx, h, rxCollector, ho, State.collectorOk, hl, hd, h1, h2]

/-- R178, R182: the byte that completes the exchange. -/
theorem execRx_completes {s : State} (b : Byte) (h : s.rxsel = true) (ho : s.mbOut = true) (hd : s.mbDone = false)
    (hl : s.expectedLenLegal = true) (hi : s.mbIdx.toNat + 1 = s.expectedLen) :
    execRx b s = .next (s.collect b).complete := by
  have h1 : s.mbIdx.toNat < s.expectedLen := by omega
  simp [execRx, h, rxCollector, ho, State.collectorOk, hl, hd, h1, hi]

/-- Everything a byte can do, where it answers a next state. -/
theorem execRx_cases {s t : State} {b : Byte} (h : execRx b s = .next t) :
    (s.rxsel = false ∧ s.cfdPositionOk = true ∧ t = cfdByte b s) ∨
    (s.rxsel = true ∧ s.mbOut = false ∧ t = s.emit .none) ∨
    (s.rxsel = true ∧ s.mbOut = true ∧ s.collectorOk = true ∧ s.mbIdx.toNat + 1 ≠ s.expectedLen ∧
      t = (s.collect b).emit .none) ∨
    (s.rxsel = true ∧ s.mbOut = true ∧ s.collectorOk = true ∧ s.mbIdx.toNat + 1 = s.expectedLen ∧
      t = (s.collect b).complete) := by
  unfold execRx at h
  cases hr : s.rxsel <;> rw [hr] at h
  · simp only [rxTelemetry, Bool.false_eq_true, if_false] at h
    cases hp : s.cfdPositionOk <;> simp [hp] at h
    exact .inl ⟨rfl, rfl, h.symm⟩
  · simp only [rxCollector, if_true] at h
    cases ho : s.mbOut
    · simp [ho] at h
      exact .inr (.inl ⟨rfl, rfl, h.symm⟩)
    · cases hc : s.collectorOk
      · simp [ho, hc] at h
      · by_cases hi : s.mbIdx.toNat + 1 = s.expectedLen
        · simp [ho, hc, hi] at h
          exact .inr (.inr (.inr ⟨rfl, rfl, rfl, hi, h.symm⟩))
        · simp [ho, hc, hi] at h
          exact .inr (.inr (.inl ⟨rfl, rfl, rfl, hi, h.symm⟩))

/-- Everything a host write can do (R201, R204): refuse, run a command, or write one register. -/
theorem execWr_cases (r : RegNum) (v : Half) (s : State) :
    execWr r v s = refuse s ∨
    (regAt r = some .cmd ∧ execWr r v s = execCommand v s) ∨
    (regAt r = some .ctrl ∧ execWr r v s = .next ({ s with rxsel := v.getLsbD 0 }.emit .none)) ∨
    (regAt r = some .mbFunc ∧ execWr r v s = .next ({ s with mbFunc := lo8 v }.emit .none)) ∨
    (regAt r = some .mbReg ∧ execWr r v s = .next ({ s with mbReg := v }.emit .none)) ∨
    (regAt r = some .mbVal ∧ execWr r v s = .next ({ s with mbVal := v }.emit .none)) ∨
    (s.mbOut = false ∧ regAt r = some .mbExpLen ∧
      execWr r v s = .next ({ s with mbExpLen := v.extractLsb' 0 9 }.emit .none)) ∨
    (s.mbOut = false ∧ regAt r = some .mbVmode ∧
      execWr r v s = .next ({ s with mbVmode := VMode.ofBit (v.getLsbD 0) }.emit .none)) ∨
    (s.mbOut = false ∧ regAt r = some .txLen ∧
      ∃ n : Fin 9, n.val = v.toNat ∧ execWr r v s = .next ({ s with txLen := n }.emit .none)) ∨
    (s.mbOut = false ∧ ∃ i, regAt r = some (.txbuf i) ∧
      execWr r v s = .next ({ s with txbuf := s.txbuf.write i (lo8 v) }.emit .none)) := by
  unfold execWr
  cases hm : s.mbOut <;> (split <;> simp_all [unlessArmed, writeTxLen])
  by_cases h9 : v.toNat < 9
  · exact .inr ⟨⟨v.toNat, h9⟩, rfl, by simp [h9]⟩
  · exact .inl fun h => absurd h h9

/-- R175: a legal expected length is at most the capacity of RXBUF. -/
theorem expectedLen_le {s : State} (h : s.expectedLenLegal = true) : s.expectedLen ≤ 260 := by
  cases hm : s.mbVmode <;>
    simp [State.expectedLenLegal, State.expectedLen, hm, RSP_OVERHEAD, MB_CAP, TX_CAP] at * <;> omega

/-- R175: a legal expected length is at least 1, and at least 5 in CRC mode. -/
theorem expectedLen_pos {s : State} (h : s.expectedLenLegal = true) :
    1 ≤ s.expectedLen ∧ (s.mbVmode = .crc → 5 ≤ s.expectedLen) := by
  cases hm : s.mbVmode <;>
    simp [State.expectedLenLegal, State.expectedLen, hm, RSP_OVERHEAD, MB_CAP, TX_CAP] at * <;> omega

/-- R35: the bits of MB_FAIL. -/
theorem failMask_bits (fCrc fAddr fFunc fBcnt fEcho : Bool) :
    (failMask fCrc fAddr fFunc fBcnt fEcho).getLsbD 0 = fCrc ∧ (failMask fCrc fAddr fFunc fBcnt fEcho).getLsbD 1 = fAddr ∧
    (failMask fCrc fAddr fFunc fBcnt fEcho).getLsbD 2 = fFunc ∧ (failMask fCrc fAddr fFunc fBcnt fEcho).getLsbD 3 = fBcnt ∧
    (failMask fCrc fAddr fFunc fBcnt fEcho).getLsbD 4 = fEcho := by
  revert fCrc fAddr fFunc fBcnt fEcho; decide

/-- R35: MB_FAIL is 0 exactly when no check failed. -/
theorem failMask_eq_zero (fCrc fAddr fFunc fBcnt fEcho : Bool) :
    failMask fCrc fAddr fFunc fBcnt fEcho = 0 ↔
      fCrc = false ∧ fAddr = false ∧ fFunc = false ∧ fBcnt = false ∧ fEcho = false := by
  revert fCrc fAddr fFunc fBcnt fEcho; decide

@[simp] theorem fetch_nil {s : State} (h : s.input = []) : fetch s = none := by simp [fetch, h]

theorem fetch_cons {s : State} {t : Token} {ts : List Token} (h : s.input = t :: ts) :
    fetch s = some (t, { s with input := ts }) := by
  simp [fetch, h]

end Sys2Proof.Machine
end

