-- ==== Sys2Proof/Laws/Memory.lean ====
section
/-! SUPPORT. What the buffer operations do, once each: reads after writes, and the canonical form kept. -/

namespace Sys2Proof.Machine

@[simp] theorem Memory.read_nil (i : Nat) : Memory.read [] i = 0 := rfl

theorem Memory.read_erase (m : Memory) (i j : Nat) :
    (Memory.erase m i).read j = if j = i then 0 else Memory.read m j := by
  induction m with
  | nil => simp [Memory.erase]
  | cons c m ih =>
    obtain ⟨k, w⟩ := c
    by_cases hk : k = i
    · subst hk
      by_cases hj : j = k
      · subst hj; simpa [Memory.erase] using ih
      · simp [Memory.erase, ih, hj, Memory.read, Ne.symm hj]
    · by_cases hj : j = i
      · subst hj; simpa [Memory.erase, Memory.read, hk] using ih
      · simp [Memory.erase, Memory.read, hk, ih, hj]

theorem Memory.read_insert (m : Memory) (i j : Nat) (v : Byte) (hm : ∀ c ∈ m, c.1 ≠ i) :
    (Memory.insert m i v).read j = if j = i then v else Memory.read m j := by
  induction m with
  | nil => by_cases hj : i = j <;> simp [Memory.insert, Memory.read, hj, Ne.symm, Memory.unlisted]
  | cons c m ih =>
    obtain ⟨k, w⟩ := c
    have hki : k ≠ i := hm (k, w) (by simp)
    have ih := ih (fun c hc => hm c (by simp [hc]))
    simp only [Memory.insert]
    split
    · by_cases hj : i = j
      · simp [Memory.read, hj]
      · simp [Memory.read, hj, Ne.symm hj]
    · by_cases hkj : k = j
      · subst hkj; simp [Memory.read, hki]
      · simp [Memory.read, hkj, ih]

theorem Memory.erase_not_mem (m : Memory) (i : Nat) : ∀ c ∈ Memory.erase m i, c.1 ≠ i := by
  induction m with
  | nil => simp [Memory.erase]
  | cons c m ih =>
    obtain ⟨k, w⟩ := c
    simp only [Memory.erase]
    split
    · exact ih
    · rename_i hk
      intro c hc
      rcases List.mem_cons.mp hc with rfl | hc
      · exact hk
      · exact ih c hc

/-- A read after a write: the value written at its index, every other index as before. -/
@[simp] theorem Memory.read_write (m : Memory) (i j : Nat) (v : Byte) :
    (Memory.write m i v).read j = if j = i then v else Memory.read m j := by
  unfold Memory.write
  split
  · rename_i h; subst h; exact Memory.read_erase m i j
  · rw [Memory.read_insert _ _ _ _ (Memory.erase_not_mem m i)]
    simp only [Memory.read_erase]
    split <;> rfl

/-- A read after a run of writes. -/
theorem Memory.read_writeBytes (m : Memory) (i j : Nat) (bs : List Byte) :
    (Memory.writeBytes m i bs).read j = if i ≤ j ∧ j < i + bs.length then bs.getD (j - i) 0 else Memory.read m j := by
  induction bs generalizing m i with
  | nil =>
    have : ¬ (i ≤ j ∧ j < i + 0) := by omega
    simp only [Memory.writeBytes, List.length_nil, if_neg this]
  | cons b bs ih =>
    simp only [Memory.writeBytes, ih, Memory.read_write, List.length_cons]
    by_cases hji : j = i
    · subst hji; simp
    · by_cases h : i + 1 ≤ j ∧ j < i + 1 + bs.length
      · have h' : i ≤ j ∧ j < i + (bs.length + 1) := by omega
        obtain ⟨d, hd⟩ : ∃ d, j - i = d + 1 := ⟨j - i - 1, by omega⟩
        have : j - (i + 1) = d := by omega
        simp [h, h', hd, this]
      · have h' : ¬ (i ≤ j ∧ j < i + (bs.length + 1)) := by omega
        rw [if_neg h, if_neg h', if_neg hji]

@[simp] theorem Memory.length_readBytes (m : Memory) (n : Nat) : (Memory.readBytes m n).length = n := by
  simp [Memory.readBytes]

theorem Memory.readBytes_succ (m : Memory) (n : Nat) :
    Memory.readBytes m (n + 1) = Memory.readBytes m n ++ [Memory.read m n] := by
  simp [Memory.readBytes, List.range_succ]

theorem Memory.readBytes_congr {m m' : Memory} {n : Nat} (h : ∀ i < n, Memory.read m i = Memory.read m' i) :
    Memory.readBytes m n = Memory.readBytes m' n := by
  simpa [Memory.readBytes] using h

/-- A write at or past `n` does not show in the first `n` bytes. -/
theorem Memory.readBytes_write_ge (m : Memory) {n i : Nat} (v : Byte) (h : n ≤ i) :
    Memory.readBytes (Memory.write m i v) n = Memory.readBytes m n :=
  Memory.readBytes_congr fun j hj => by simp; omega

theorem Memory.wfFrom_erase {cap lo : Nat} {m : Memory} (i : Nat) (h : Memory.wfFrom cap lo m = true) :
    Memory.wfFrom cap lo (Memory.erase m i) = true := by
  have weaken : ∀ {m : Memory} {a b : Nat}, b ≤ a → Memory.wfFrom cap a m = true → Memory.wfFrom cap b m = true := by
    intro m a b hab hm
    cases m with
    | nil => rfl
    | cons c m => obtain ⟨k, w⟩ := c; simp_all [Memory.wfFrom]; omega
  induction m generalizing lo with
  | nil => rfl
  | cons c m ih =>
    obtain ⟨k, w⟩ := c
    simp only [Memory.wfFrom, Bool.and_eq_true, decide_eq_true_eq] at h
    simp only [Memory.erase]
    split
    · exact weaken (by omega) (ih h.2)
    · simp [Memory.wfFrom, h.1.1.1, h.1.1.2, ih h.2]; exact h.1.2

theorem Memory.wfFrom_insert {cap lo i : Nat} {m : Memory} {v : Byte} (h : Memory.wfFrom cap lo m = true) (hlo : lo ≤ i)
    (hi : i < cap) (hv : v ≠ 0) (hm : ∀ c ∈ m, c.1 ≠ i) : Memory.wfFrom cap lo (Memory.insert m i v) = true := by
  induction m generalizing lo with
  | nil =>
    simp only [Memory.insert, Memory.wfFrom, Bool.and_eq_true, decide_eq_true_eq]
    exact ⟨⟨⟨hlo, hi⟩, hv⟩, trivial⟩
  | cons c m ih =>
    obtain ⟨k, w⟩ := c
    have hki : k ≠ i := hm (k, w) (by simp)
    simp only [Memory.wfFrom, Bool.and_eq_true, decide_eq_true_eq] at h
    simp only [Memory.insert]
    split
    · rename_i hik
      simp only [Memory.wfFrom, Bool.and_eq_true, decide_eq_true_eq]
      exact ⟨⟨⟨hlo, hi⟩, hv⟩, ⟨⟨by omega, h.1.1.2⟩, h.1.2⟩, h.2⟩
    · simp only [Memory.wfFrom, Bool.and_eq_true, decide_eq_true_eq]
      exact ⟨h.1, ih h.2 (by omega) fun c hc => hm c (by simp [hc])⟩

/-- A write below the capacity keeps the canonical form. -/
theorem Memory.wf_write {cap i : Nat} {m : Memory} (v : Byte) (h : Memory.wf cap m = true) (hi : i < cap) :
    Memory.wf cap (Memory.write m i v) = true := by
  unfold Memory.write
  split
  · exact Memory.wfFrom_erase i h
  · rename_i hv
    exact Memory.wfFrom_insert (Memory.wfFrom_erase i h) (Nat.zero_le _) hi hv (Memory.erase_not_mem m i)

/-- A run of writes below the capacity keeps the canonical form. -/
theorem Memory.wf_writeBytes {cap : Nat} (m : Memory) (i : Nat) (bs : List Byte) (h : Memory.wf cap m = true)
    (hi : i + bs.length ≤ cap) : Memory.wf cap (Memory.writeBytes m i bs) = true := by
  induction bs generalizing m i with
  | nil => exact h
  | cons b bs ih =>
    simp only [List.length_cons] at hi
    exact ih _ _ (Memory.wf_write b h (by omega)) (by omega)

/-- In canonical form nothing at or past the capacity is listed. -/
theorem Memory.read_ge_cap {cap : Nat} {m : Memory} (h : Memory.wf cap m = true) {i : Nat} (hi : cap ≤ i) :
    Memory.read m i = 0 := by
  have aux : ∀ (m : Memory) (lo : Nat), Memory.wfFrom cap lo m = true → Memory.read m i = 0 := by
    intro m
    induction m with
    | nil => intros; rfl
    | cons c m ih =>
      obtain ⟨k, w⟩ := c
      intro lo h
      simp only [Memory.wfFrom, Bool.and_eq_true, decide_eq_true_eq] at h
      have : k ≠ i := by omega
      simp [Memory.read, this, ih _ h.2]
  exact aux m 0 h

/-- Two buffers in canonical form that read alike are equal data. -/
theorem Memory.ext_of_read {cap : Nat} {m m' : Memory} (h : Memory.wf cap m = true) (h' : Memory.wf cap m' = true)
    (hr : ∀ i, Memory.read m i = Memory.read m' i) : m = m' := by
  have low : ∀ (m : Memory) (lo i : Nat), Memory.wfFrom cap lo m = true → i < lo → Memory.read m i = 0 := by
    intro m
    induction m with
    | nil => intros; rfl
    | cons c m ih =>
      obtain ⟨k, w⟩ := c
      intro lo i h hi
      simp only [Memory.wfFrom, Bool.and_eq_true, decide_eq_true_eq] at h
      have : k ≠ i := by omega
      simp [Memory.read, this, ih _ _ h.2 (by omega : i < k + 1)]
  have aux : ∀ (m m' : Memory) (lo lo' : Nat), Memory.wfFrom cap lo m = true → Memory.wfFrom cap lo' m' = true →
      (∀ i, Memory.read m i = Memory.read m' i) → m = m' := by
    intro m
    induction m with
    | nil =>
      intro m' lo lo' _ h' hr
      cases m' with
      | nil => rfl
      | cons c m' =>
        obtain ⟨k, w⟩ := c
        simp only [Memory.wfFrom, Bool.and_eq_true, decide_eq_true_eq] at h'
        exact absurd (by simpa [Memory.read] using (hr k).symm) h'.1.2
    | cons c m ih =>
      obtain ⟨k, w⟩ := c
      intro m' lo lo' h h' hr
      simp only [Memory.wfFrom, Bool.and_eq_true, decide_eq_true_eq] at h
      cases m' with
      | nil => exact absurd (by simpa [Memory.read] using hr k) h.1.2
      | cons c' m' =>
        obtain ⟨k', w'⟩ := c'
        simp only [Memory.wfFrom, Bool.and_eq_true, decide_eq_true_eq] at h'
        have hkk : k = k' := by
          rcases Nat.lt_trichotomy k k' with hlt | heq | hgt
          · have h1 := hr k
            have hne : k' ≠ k := by omega
            simp only [Memory.read, if_true, if_neg hne] at h1
            rw [low m' _ k h'.2 (by omega)] at h1
            exact absurd h1 h.1.2
          · exact heq
          · have h1 := hr k'
            have hne : k ≠ k' := by omega
            simp only [Memory.read, if_true, if_neg hne] at h1
            rw [low m _ k' h.2 (by omega)] at h1
            exact absurd h1.symm h'.1.2
        subst hkk
        have hw : w = w' := by simpa [Memory.read] using hr k
        subst hw
        congr 1
        refine ih m' _ _ h.2 h'.2 fun i => ?_
        by_cases hi : k = i
        · subst hi; rw [low m _ k h.2 (by omega), low m' _ k h'.2 (by omega)]
        · simpa [Memory.read, hi] using hr i
  exact aux m m' 0 0 h h' hr

end Sys2Proof.Machine
end

