-- ==== Sys2Proof/Laws/PerInstr.lean ====
section
/-! SUPPORT. One family over the instructions: the encoder's item fits the instruction's own row of spec/opcode_table.json. -/

namespace Sys2Proof.Laws.EncodesRow

/-- The item is an event word whose bits under `mask` are `pattern`: a row's "mask" and "match" (R81, R84). -/
def fitsWord (mask pattern : EventWord) : Token → Prop
  | .word w => w &&& mask = pattern
  | .frame _ => False

/-- The item is a wire frame of `len` bytes that begins with the row's fixed bytes (R90, R93). -/
def fitsFrame (len : Nat) (head : List Byte) : Token → Prop
  | .word _ => False
  | .frame bs => bs.length = len ∧ head <+: bs

/-- The item fits the row of an instruction. -/
def rowFits : Instr → Token → Prop
  | .reset => fitsWord 0xFFFFFFFF 0x00000000
  | .rx _ => fitsWord 0xFFFFFF00 0x10000000
  | .wr _ _ => fitsWord 0xF0000000 0x20000000
  | .rd _ => fitsWord 0xF000FFFF 0x30000000
  | .cmdNop => fitsWord 0xFFFFFFFF 0x20010000
  | .cmdSyncClr => fitsWord 0xFFFFFFFF 0x20010001
  | .cmdFrmAck => fitsWord 0xFFFFFFFF 0x20010002
  | .cmdDiagClr => fitsWord 0xFFFFFFFF 0x20010003
  | .cmdFlagClr => fitsWord 0xFFFFFFFF 0x20010004
  | .cmdMbEncode => fitsWord 0xFFFFFFFF 0x20010010
  | .cmdMbArm => fitsWord 0xFFFFFFFF 0x20010011
  | .cmdMbAbort => fitsWord 0xFFFFFFFF 0x20010012
  | .tframe20 _ _ => fitsFrame 24 [0x42, 0x4D, 0x00, 0x14]
  | .tframe28 _ _ => fitsFrame 32 [0x42, 0x4D, 0x00, 0x1C]
  | .mbreqReadA _ _ _ => fitsFrame 8 [0xFE, 0x03]
  | .mbreqReadB _ _ _ => fitsFrame 8 [0xFE, 0x04]
  | .mbreqWrite _ _ _ => fitsFrame 8 [0xFE, 0x06]

/-- The encoding of a well-formed instruction under the parameters the table is written with fits its row. -/
def Statement (i : Instr) : Prop := i.wellFormed = true → rowFits i (encode Config.default i)

theorem reset : Statement .reset := fun _ => rfl

theorem rx (b : Byte) : Statement (.rx b) := fun _ => by
  show ((0x100000 : BitVec 24) ++ b) &&& 0xFFFFFF00 = 0x10000000
  revert b; decide

theorem wr (r : RegNum) (v : Half) : Statement (.wr r v) := fun _ => by
  show ((0x2 : BitVec 4) ++ r ++ v) &&& ((0xF : BitVec 4) ++ (0 : RegNum) ++ (0 : Half)) =
    (0x2 : BitVec 4) ++ (0 : RegNum) ++ (0 : Half)
  rw [BitVec.and_append, BitVec.and_append]; simp

theorem rd (r : RegNum) : Statement (.rd r) := fun _ => by
  show ((0x3 : BitVec 4) ++ r ++ (0x0000 : Half)) &&& ((0xF : BitVec 4) ++ (0 : RegNum) ++ (0xFFFF : Half)) =
    (0x3 : BitVec 4) ++ (0 : RegNum) ++ (0 : Half)
  rw [BitVec.and_append, BitVec.and_append]; simp

theorem cmdNop : Statement .cmdNop := fun _ => rfl
theorem cmdSyncClr : Statement .cmdSyncClr := fun _ => rfl
theorem cmdFrmAck : Statement .cmdFrmAck := fun _ => rfl
theorem cmdDiagClr : Statement .cmdDiagClr := fun _ => rfl
theorem cmdFlagClr : Statement .cmdFlagClr := fun _ => rfl
theorem cmdMbEncode : Statement .cmdMbEncode := fun _ => rfl
theorem cmdMbArm : Statement .cmdMbArm := fun _ => rfl
theorem cmdMbAbort : Statement .cmdMbAbort := fun _ => rfl

theorem tframe20 (p : List Byte) (c : Half) : Statement (.tframe20 p c) := fun h => by
  have hp : p.length = 18 := by simpa [Instr.wellFormed, LEN_A] using h
  exact ⟨by simp [telemetryBytes, hp], ⟨p ++ [hi8 c, lo8 c], by simp [telemetryBytes]⟩⟩

theorem tframe28 (p : List Byte) (c : Half) : Statement (.tframe28 p c) := fun h => by
  have hp : p.length = 26 := by simpa [Instr.wellFormed, LEN_B] using h
  exact ⟨by simp [telemetryBytes, hp], ⟨p ++ [hi8 c, lo8 c], by simp [telemetryBytes]⟩⟩

theorem mbreqReadA (reg count crc : Half) : Statement (.mbreqReadA reg count crc) := fun _ =>
  ⟨rfl, ⟨[hi8 reg, lo8 reg, hi8 count, lo8 count, lo8 crc, hi8 crc], rfl⟩⟩

theorem mbreqReadB (reg count crc : Half) : Statement (.mbreqReadB reg count crc) := fun _ =>
  ⟨rfl, ⟨[hi8 reg, lo8 reg, hi8 count, lo8 count, lo8 crc, hi8 crc], rfl⟩⟩

theorem mbreqWrite (reg value crc : Half) : Statement (.mbreqWrite reg value crc) := fun _ =>
  ⟨rfl, ⟨[hi8 reg, lo8 reg, hi8 value, lo8 value, lo8 crc, hi8 crc], rfl⟩⟩

end Sys2Proof.Laws.EncodesRow
end

