-- ==== Sys2Proof/Laws/Registers.lean ====
section
/-! SUPPORT. The register map: the number of a register, and when a state change shows in no register but those listed. -/

namespace Sys2Proof.Machine

/-- The number of a register (R40). -/
def HostReg.number : HostReg → RegNum
  | .ctrl => 0x000
  | .cmd => 0x001
  | .status => 0x002
  | .mbFail => 0x003
  | .cfdSt => 0x004
  | .cfdIdx => 0x005
  | .cfdSum => 0x006
  | .cfdLen => 0x007
  | .cfdCkh => 0x008
  | .discCnt => 0x009
  | .discCause => 0x00A
  | .frmLen => 0x00B
  | .mbFunc => 0x010
  | .mbReg => 0x011
  | .mbVal => 0x012
  | .mbExpLen => 0x013
  | .mbVmode => 0x014
  | .mbIdx => 0x015
  | .mbCrc => 0x016
  | .txLen => 0x017
  | .txbuf i => BitVec.ofNat 12 (0x020 + i)
  | .frmData i => BitVec.ofNat 12 (0x040 + i)
  | .rxbuf i => BitVec.ofNat 12 (0x100 + i)

/-- The index of a buffer register is inside the buffer (R40). -/
def HostReg.inRange : HostReg → Bool
  | .txbuf i => decide (i < TX_CAP)
  | .frmData i => decide (i < PAY_CAP)
  | .rxbuf i => decide (i < MB_CAP)
  | _ => true

theorem regAt_some {r : RegNum} {h : HostReg} (hr : regAt r = some h) : r = h.number ∧ h.inRange = true := by
  unfold regAt at hr
  split at hr
  · rename_i row hrow
    have hm := List.mem_of_find?_eq_some hrow
    have he : row.1 = r := by simpa using List.find?_some hrow
    cases hr
    subst he
    clear hrow
    revert row
    decide
  · have hlt := r.isLt
    have key : ∀ n : Nat, r.toNat = n → r = BitVec.ofNat 12 n := fun n hn => by
      apply BitVec.eq_of_toNat_eq; simp; omega
    unfold bufferRegAt at hr
    by_cases h1 : 0x020 ≤ r.toNat ∧ r.toNat < 0x020 + TX_CAP
    · rw [if_pos h1] at hr; cases hr
      exact ⟨key _ (by omega), by simp only [HostReg.inRange, decide_eq_true_eq]; omega⟩
    · rw [if_neg h1] at hr
      by_cases h2 : 0x040 ≤ r.toNat ∧ r.toNat < 0x040 + PAY_CAP
      · rw [if_pos h2] at hr; cases hr
        exact ⟨key _ (by omega), by simp only [HostReg.inRange, decide_eq_true_eq]; omega⟩
      · rw [if_neg h2] at hr
        by_cases h3 : 0x100 ≤ r.toNat ∧ r.toNat < 0x100 + MB_CAP
        · rw [if_pos h3] at hr; cases hr
          exact ⟨key _ (by omega), by simp only [HostReg.inRange, decide_eq_true_eq]; omega⟩
        · rw [if_neg h3] at hr; cases hr

/-- A number that no scalar row has. -/
theorem regAt_buffer {r : RegNum} (h : (0x018 ≤ r.toNat ∧ r.toNat < 0x1000)) : regAt r = bufferRegAt r.toNat := by
  have : scalarRegs.find? (fun row => row.1 == r) = none := by
    rw [List.find?_eq_none]
    intro row hrow he
    have hs : ∀ row ∈ scalarRegs, row.1.toNat < 0x018 := by decide
    have := hs row hrow
    rw [show row.1 = r by simpa using he] at this
    omega
  simp [regAt, this]

/-- The register map is the inverse of `number` (R40). -/
theorem regAt_number {g : HostReg} (h : g.inRange = true) : regAt g.number = some g := by
  cases g with
  | txbuf i =>
    have hi : i < 8 := by simpa [HostReg.inRange, TX_CAP] using h
    have : (BitVec.ofNat 12 (0x020 + i)).toNat = 0x020 + i := by rw [BitVec.toNat_ofNat]; omega
    rw [HostReg.number, regAt_buffer (by omega), this]
    simp only [bufferRegAt, TX_CAP]
    rw [if_pos (by omega), Nat.add_sub_cancel_left]
  | frmData i =>
    have hi : i < 26 := by simpa [HostReg.inRange, PAY_CAP] using h
    have : (BitVec.ofNat 12 (0x040 + i)).toNat = 0x040 + i := by rw [BitVec.toNat_ofNat]; omega
    rw [HostReg.number, regAt_buffer (by omega), this]
    simp only [bufferRegAt, TX_CAP, PAY_CAP]
    rw [if_neg (by omega), if_pos (by omega), Nat.add_sub_cancel_left]
  | rxbuf i =>
    have hi : i < 260 := by simpa [HostReg.inRange, MB_CAP] using h
    have : (BitVec.ofNat 12 (0x100 + i)).toNat = 0x100 + i := by rw [BitVec.toNat_ofNat]; omega
    rw [HostReg.number, regAt_buffer (by omega), this]
    simp only [bufferRegAt, TX_CAP, PAY_CAP, MB_CAP]
    rw [if_neg (by omega), if_neg (by omega), if_pos (by omega), Nat.add_sub_cancel_left]
  | _ => rfl

/-- A mapped register reads as itself (R202). -/
theorem hostRead_number (s : State) {g : HostReg} (h : g.inRange = true) : hostRead s g.number = readReg s g := by
  simp [hostRead, regAt_number h]

/-- Equal registers read alike. -/
theorem hostRead_congr {s t : State} {r : RegNum} (h : ∀ g, regAt r = some g → readReg t g = readReg s g) :
    hostRead t r = hostRead s r := by
  unfold hostRead
  cases hg : regAt r with
  | none => rfl
  | some g => simp [h g hg]

/-- To show that no register but STATUS and those of `rs` changes, look at each register of the map once. -/
theorem regs_same_of {s t : State} {rs : List RegNum}
    (h : ∀ g : HostReg, g.inRange = true → g.number ≠ 0x002 → g.number ∉ rs → readReg t g = readReg s g) :
    ∀ r, r ≠ 0x002 → r ∉ rs → hostRead t r = hostRead s r := fun _ h2 hrs =>
  hostRead_congr fun g hg => by
    obtain ⟨rfl, hin⟩ := regAt_some hg
    exact h g hin h2 hrs

theorem mem_txbufRegs {i : Nat} (h : i < TX_CAP) : BitVec.ofNat 12 (0x020 + i) ∈ txbufRegs :=
  List.mem_map.mpr ⟨i, List.mem_range.mpr h, rfl⟩

theorem mem_frmDataRegs {i : Nat} (h : i < PAY_CAP) : BitVec.ofNat 12 (0x040 + i) ∈ frmDataRegs :=
  List.mem_map.mpr ⟨i, List.mem_range.mpr h, rfl⟩

theorem mem_rxbufRegs {i : Nat} (h : i < MB_CAP) : BitVec.ofNat 12 (0x100 + i) ∈ rxbufRegs :=
  List.mem_map.mpr ⟨i, List.mem_range.mpr h, rfl⟩

end Sys2Proof.Machine
end

