-- ==== Sys2Proof/Laws/Session.lean ====
section
/-! SUPPORT. What the host's shared operations can do: one output a byte, pumping, waiting, idling, flushing, reading registers. -/

namespace Sys2Proof.Machine

@[simp] theorem nextOf_next (s : State) : nextOf (.next s) = some s := rfl

theorem outputsSince_append {s t : State} {os : List Output} (h : t.out = s.out ++ os) : outputsSince s t = os := by
  simp [outputsSince, h]

/-- R13: a byte to CFD has one output. -/
theorem cfdByte_out (b : Byte) (s : State) : ∃ o, (cfdByte b s).out = s.out ++ [o] := by
  unfold cfdByte
  cases s.cfdSt <;>
    simp only [rxSeekHeader0, rxSeekHeader1, rxReadLenHi, rxReadLenLo, rxReadPayload, rxReadChecksumHi, rxReadChecksumLo, emitFrame] <;>
    (try split) <;> exact ⟨_, rfl⟩

/-- R13: a byte has one output. -/
theorem execRx_out {b : Byte} {s t : State} (h : execRx b s = .next t) : ∃ o, t.out = s.out ++ [o] := by
  obtain ⟨-, -, rfl⟩ | ⟨-, -, rfl⟩ | ⟨-, -, -, -, rfl⟩ | ⟨-, -, -, -, rfl⟩ := execRx_cases h
  · exact cfdByte_out b s
  · exact ⟨_, rfl⟩
  · exact ⟨_, rfl⟩
  · exact ⟨_, rfl⟩

/-- R13: a run of bytes has outputs after those before it. -/
theorem feedBytes_out (bs : List Byte) {s t : State} (h : feedBytes bs s = .next t) : ∃ os, t.out = s.out ++ os := by
  refine feedBytes_keeps (fun t => ∃ os, t.out = s.out ++ os) (fun b u v hu hv => ?_) bs ⟨[], by simp⟩ h
  obtain ⟨os, hu⟩ := hu
  obtain ⟨o, hv⟩ := execRx_out hv
  exact ⟨os ++ [o], by simp [hv, hu]⟩

@[simp] theorem pumpUntil_nil (stop : Output → Bool) (s : State) : pumpUntil stop [] s = some (s, none) := rfl

theorem pumpUntil_cons {stop : Output → Bool} {b : Byte} {bs : List Byte} {s t : State} {o : Output}
    (h : execRx b s = .next t) (ho : t.out = s.out ++ [o]) :
    pumpUntil stop (b :: bs) s = if stop o then some (t, some (o, bs)) else pumpUntil stop bs t := by
  cases hs : stop o <;> simp [pumpUntil, h, outputsSince_append ho, hs]

/-- Bytes none of whose outputs is waited for are taken, and pumping goes on behind them. -/
theorem pumpUntil_silent {stop : Output → Bool} (p q : List Byte) {s t : State} {os : List Output}
    (h : feedBytes p s = .next t) (ho : t.out = s.out ++ os) (hs : ∀ o ∈ os, stop o = false) :
    pumpUntil stop (p ++ q) s = pumpUntil stop q t := by
  induction p generalizing s os with
  | nil => cases h; rfl
  | cons b p ih =>
    obtain ⟨u, hu, hv⟩ := andThen_eq_next h
    obtain ⟨o, hu'⟩ := execRx_out hu
    obtain ⟨os', hv'⟩ := feedBytes_out p hv
    have : os = o :: os' := by
      rw [hv', hu', List.append_assoc] at ho
      exact (List.append_cancel_left ho).symm
    subst this
    simp only [List.mem_cons, forall_eq_or_imp] at hs
    rw [List.cons_append, pumpUntil_cons hu hu', hs.1]
    exact ih hv hv' hs.2

/-- The first output that is waited for ends the pumping, the bytes after it untouched. -/
theorem pumpUntil_stops {stop : Output → Bool} (p : List Byte) (b : Byte) (q : List Byte) {s t u : State} {os : List Output}
    {o : Output} (h : feedBytes p s = .next t) (ho : t.out = s.out ++ os) (hs : ∀ o ∈ os, stop o = false)
    (hb : execRx b t = .next u) (hu : u.out = t.out ++ [o]) (hstop : stop o = true) :
    pumpUntil stop (p ++ b :: q) s = some (u, some (o, q)) := by
  rw [pumpUntil_silent p _ h ho hs, pumpUntil_cons hb hu, if_pos hstop]

/-- A poll with nothing to pump. -/
theorem awaitOutput_empty (stop : Output → Bool) (start budget now : Nat) (polls : List Poll) (s : State) :
    awaitOutput stop start budget ((now, []) :: polls) s =
      if budget ≤ now - start then .timeout s now polls else awaitOutput stop start budget polls s := rfl

/-- Polls with nothing to pump, all before the budget. -/
theorem awaitOutput_silent (stop : Output → Bool) (start budget : Nat) (times : List Nat) (polls : List Poll) (s : State)
    (h : ∀ time ∈ times, time - start < budget) :
    awaitOutput stop start budget (times.map (fun time => (time, [])) ++ polls) s = awaitOutput stop start budget polls s := by
  induction times with
  | nil => rfl
  | cons time times ih =>
    simp only [List.mem_cons, forall_eq_or_imp] at h
    rw [List.map_cons, List.cons_append, awaitOutput_empty, if_neg (by omega), ih h.2]

/-- The poll at which the output waited for comes. -/
theorem awaitOutput_success {stop : Output → Bool} {available rest : List Byte} {s t : State} {o : Output}
    (h : pumpUntil stop available s = some (t, some (o, rest))) (start budget now : Nat) (polls : List Poll) :
    awaitOutput stop start budget ((now, available) :: polls) s = .success o t now ((now, rest) :: polls) := by
  simp [awaitOutput, h]

/-- The fields of a transport after `flushInput` and `writeBytes`. -/
@[simp] theorem Transport.flushInput_written (p : Transport) (now : Nat) : (p.flushInput now).written = p.written := rfl
@[simp] theorem Transport.writeBytes_written (p : Transport) (bs : List Byte) : (p.writeBytes bs).written = p.written ++ bs := rfl
@[simp] theorem Transport.writeBytes_polls (p : Transport) (bs : List Byte) : (p.writeBytes bs).polls = p.polls := rfl

/-- What arrives after a flush is kept. -/
theorem Transport.flushInput_later {p : Transport} {now : Nat} (h : ∀ q ∈ p.polls, now < q.1) :
    (p.flushInput now).polls = p.polls := by
  refine (List.map_congr_left fun q hq => ?_).trans (List.map_id _)
  have := h q hq
  simp; omega

/-- What arrived before a flush is gone. -/
theorem Transport.flushInput_stale {p : Transport} {now : Nat} (h : ∀ q ∈ p.polls, q.1 ≤ now) :
    (p.flushInput now).polls = (p.polls.map Prod.fst).map fun time => (time, []) := by
  simp only [Transport.flushInput, List.map_map]
  exact List.map_congr_left fun q hq => by simp [h q hq]

theorem Transport.flushInput_append (p q : List Poll) (written : List Byte) (now : Nat) :
    (Transport.flushInput { polls := p ++ q, written := written } now).polls =
      (Transport.flushInput { polls := p, written := written } now).polls ++
        (Transport.flushInput { polls := q, written := written } now).polls := by
  simp [Transport.flushInput]

/-- A state with more outputs. -/
def State.appendOut (s : State) (os : List Output) : State := { s with out := s.out ++ os }

@[simp] theorem State.appendOut_nil (s : State) : s.appendOut [] = s := by simp [State.appendOut]

@[simp] theorem State.appendOut_appendOut (s : State) (os os' : List Output) :
    (s.appendOut os).appendOut os' = s.appendOut (os ++ os') := by simp [State.appendOut]

@[simp] theorem State.appendOut_out (s : State) (os : List Output) : (s.appendOut os).out = s.out ++ os := rfl

@[simp] theorem hostRead_appendOut (s : State) (os : List Output) (r : RegNum) : hostRead (s.appendOut os) r = hostRead s r :=
  hostRead_congr fun g _ => by cases g <;> rfl

/-- R202: reading registers outputs their values, in order, and changes nothing else. -/
theorem readRegs_eq (rs : List RegNum) (s : State) :
    readRegs rs s = some (s.appendOut (rs.map fun r => .rdata (hostRead s r)), rs.map (hostRead s)) := by
  induction rs generalizing s with
  | nil => simp [readRegs]
  | cons r rs ih =>
    have : exec (.rd r) s = .next (s.appendOut [.rdata (hostRead s r)]) := rfl
    simp [readRegs, this, ih, outputsSince, Output.data?]

/-- R202: a run of byte registers, each with a known value. -/
theorem readBytesFrom_eq {base count : Nat} {s : State} {value : Nat → Byte}
    (h : ∀ i < count, hostRead s (BitVec.ofNat 12 (base + i)) = zext16 (value i)) :
    ∃ os, readBytesFrom base count s = some (s.appendOut os, (List.range count).map value) := by
  have hlo : ∀ b : Byte, lo8 (zext16 b) = b := fun b => BitVec.eq_of_toNat_eq (by simp [lo8, zext16]; omega)
  refine ⟨((List.range count).map fun i => BitVec.ofNat 12 (base + i)).map fun r => .rdata (hostRead s r), ?_⟩
  simp only [readBytesFrom, readRegs_eq, Option.map_some, List.map_map]
  refine congrArg some (Prod.ext rfl (List.map_congr_left fun i hi => ?_))
  simp [h i (List.mem_range.mp hi), hlo]

/-- R228 step 4: the request as the host reads it. -/
theorem readRequest_eq (s : State) : ∃ os, readRequest s = some (s.appendOut os, s.requestOut) := by
  have hn : s.txLen.val < 9 := s.txLen.isLt
  have hlen : (hostRead s 0x017).toNat = s.txLen.val := by
    change (BitVec.ofNat 16 s.txLen.val).toNat = _
    rw [BitVec.toNat_ofNat]; omega
  obtain ⟨os, h⟩ := readBytesFrom_eq (base := 0x020) (count := s.txLen.val) (s := s.appendOut [.rdata (hostRead s 0x017)])
    (value := s.txbuf.read) fun i hi => (hostRead_number _ (g := .txbuf i) (by simp [HostReg.inRange, TX_CAP]; omega))
  refine ⟨.rdata (hostRead s 0x017) :: os, ?_⟩
  rw [readRequest, readRegs_eq, Option.bind_some]
  simp only [List.map_cons, List.map_nil, List.headD_cons]
  rw [hlen, h, State.appendOut_appendOut]
  rfl

/-- R228 step 6: the data as the host reads it. -/
theorem readData_eq {s : State} (h : s.expectedLen ≤ MB_CAP) :
    ∃ os, readData s = some (s.appendOut os, (List.range (s.expectedLen - 5)).map fun i => s.rxbuf.read (3 + i)) := by
  have hm : MB_CAP = 260 := rfl
  refine readBytesFrom_eq (value := fun i => s.rxbuf.read (3 + i)) fun i hi => ?_
  have := hostRead_number s (g := .rxbuf (3 + i)) (by simp [HostReg.inRange, RSP_OVERHEAD] at *; omega)
  simpa [HostReg.number, readReg, ← Nat.add_assoc] using this

end Sys2Proof.Machine
end

