-- ==== Sys2Proof/Tests/Slice0.lean ====
section
/-! SUPPORT. Tests: well-formedness, words written out from the spec's encodings, one step an instruction with results from
95_test_vectors.md, and for every statement with hypotheses a state and operands that meet them. -/

namespace Sys2Proof.Machine.Tests

/-- A view of the next state, where there is one. -/
def view {α : Type} (r : Result) (f : State → α) : Option α :=
  match r with
  | .next t => some (f t)
  | .fault _ => none
  | .refused _ => none

/-- The state of CFD in the middle of a frame. -/
def cfdAt (st : CfdSt) (idx : BitVec 5) (len : Half) : State :=
  { State.reset with cfdSt := st, cfdIdx := idx, cfdLen := len }

/-- An armed collector in CRC mode. -/
def armedCrc (n idx : BitVec 9) : State := { State.reset with rxsel := true, mbOut := true, mbExpLen := n, mbIdx := idx }

/-- An armed collector in ECHO mode over a request. -/
def armedEcho (request : List Byte) (n : Fin 9) : State :=
  { State.reset with
    rxsel := true, mbOut := true, mbVmode := .echo, txLen := n, txbuf := Memory.writeBytes [] 0 request }

/-- The operands of a request (R37). -/
def operands (f : Byte) (r v : Half) : State := { State.reset with mbFunc := f, mbReg := r, mbVal := v }

/-- P20 of 95_test_vectors.md. -/
def p20 : List Byte := [0x00, 0x0A, 0x00, 0x19, 0x00, 0x1E, 0x00, 0x09, 0x00, 0x16, 0x00, 0x1C, 0x00, 0x00, 0x00, 0x00, 0x00, 0x00]

/-- P28 of 95_test_vectors.md. -/
def p28 : List Byte := [0x00, 0x0A, 0x00, 0x19, 0x00, 0x1E, 0x00, 0x09, 0x00, 0x16, 0x00, 0x1C, 0x05, 0xDC, 0x01, 0xAE,
  0x00, 0x46, 0x00, 0x0A, 0x00, 0x03, 0x00, 0x01, 0x91, 0x00]

/-- Q1 and Q2 of 95_test_vectors.md. -/
def q1 : List Byte := [0xFE, 0x04, 0x00, 0x03, 0x00, 0x01, 0xD5, 0xC5]
def q2 : List Byte := [0xFE, 0x06, 0x00, 0x01, 0x00, 0x00, 0xCC, 0x05]

/-! Well-formedness: an ill-formed term for each check. -/

theorem test_ill_formed_write_spells_command : (Instr.wr 0x001 0x0010).wellFormed = false := by decide
theorem test_well_formed_unknown_command : (Instr.wr 0x001 0x0110).wellFormed = true := by decide
theorem test_ill_formed_tframe20 : (Instr.tframe20 p28 0x039C).wellFormed = false := by decide
theorem test_ill_formed_tframe28 : (Instr.tframe28 p20 0x011F).wellFormed = false := by decide
theorem test_well_formed_tframe20 : (Instr.tframe20 p20 0x011F).wellFormed = true := by decide

/-! Decoding: words and frames written out from R81, R84, R90, R93; reserved words by R82. -/

theorem test_decode_reset : decodeTableWord 32 0x00000000 = some .reset := by decide
theorem test_decode_rx : decodeTableWord 32 0x100000FE = some (.rx 0xFE) := by decide
theorem test_decode_wr : decodeTableWord 32 0x20110003 = some (.wr 0x011 0x0003) := by decide
theorem test_decode_rd : decodeTableWord 32 0x31030000 = some (.rd 0x103) := by decide
theorem test_decode_nop : decodeTableWord 32 0x20010000 = some .cmdNop := by decide
theorem test_decode_sync_clr : decodeTableWord 32 0x20010001 = some .cmdSyncClr := by decide
theorem test_decode_frm_ack : decodeTableWord 32 0x20010002 = some .cmdFrmAck := by decide
theorem test_decode_diag_clr : decodeTableWord 32 0x20010003 = some .cmdDiagClr := by decide
theorem test_decode_flag_clr : decodeTableWord 32 0x20010004 = some .cmdFlagClr := by decide
theorem test_decode_mb_encode : decodeTableWord 32 0x20010010 = some .cmdMbEncode := by decide
theorem test_decode_mb_arm : decodeTableWord 32 0x20010011 = some .cmdMbArm := by decide
theorem test_decode_mb_abort : decodeTableWord 32 0x20010012 = some .cmdMbAbort := by decide
theorem test_decode_unknown_command : decodeTableWord 32 0x20010110 = some (.wr 0x001 0x0110) := by decide
theorem test_decode_read_a : decodeFrame Config.default [0xFE, 0x03, 0x00, 0x00, 0x00, 0x04, 0x50, 0x06] =
    .ok (.mbreqReadA 0x0000 0x0004 0x0650) := by rfl
theorem test_decode_read_b : decodeFrame Config.default q1 = .ok (.mbreqReadB 0x0003 0x0001 0xC5D5) := by rfl
theorem test_decode_write : decodeFrame Config.default q2 = .ok (.mbreqWrite 0x0001 0x0000 0x05CC) := by rfl
theorem test_decode_frame20 : decodeFrame Config.default (telemetryBytes 0x14 p20 0x011F) = .ok (.tframe20 p20 0x011F) := by rfl
theorem test_decode_frame28 : decodeFrame Config.default ([0x42, 0x4D, 0x00, 0x1C] ++ p28 ++ [0x03, 0x9C]) =
    .ok (.tframe28 p28 0x039C) := by rfl
theorem test_decode_inadmissible_length : decodeFrame Config.default ([0x42, 0x4D, 0x01, 0x14] ++ p20 ++ [0x01, 0x1F]) =
    .error .notAWireFrame := by rfl
theorem test_decode_table_read_b : decodeTableWord 64 0xC5D50100030004FE = some (.mbreqReadB 0x0003 0x0001 0xC5D5) := by decide
theorem test_decode_table_read_b_in_pattern_order :
    decodeTableWord 64 0xFE0400030001D5C5 = some (.mbreqReadB 0x0003 0x0001 0xC5D5) := by decide
theorem test_decode_table_frame20 : decodeTableWord 192 0x1F010000000000001C00160009001E0019000A0014004D42 =
    some (.tframe20 p20 0x011F) := by decide
theorem test_reserved_kind : decodeTableWord 32 0x40000000 = none := by decide
theorem test_reserved_reset_field : decodeTableWord 32 0x00010000 = none := by decide
theorem test_reserved_rx_field : decodeTableWord 32 0x10000142 = none := by decide
theorem test_reserved_rd_field : decodeTableWord 32 0x30020001 = none := by decide

/-! Integrity: V-I2, V-I4, V-I5, V-I12, V-I13, V-I14. -/

theorem test_crc_zero_byte : crc16 [0x00] = 0x40BF := by decide
theorem test_crc_source_vector : crc16 [0xFE, 0x04, 0x00, 0x03, 0x00, 0x01] = 0xC5D5 := by decide +kernel
theorem test_crc_check_value : crc16 [0x31, 0x32, 0x33, 0x34, 0x35, 0x36, 0x37, 0x38, 0x39] = 0x4B37 := by decide +kernel
theorem test_crc_step : crcStep 0xFFFF 0xFE = 0xC03E := by decide
theorem test_sum_f28 : sum16 ([0x42, 0x4D, 0x00, 0x1C] ++ p28) = 0x039C := by decide +kernel
theorem test_sum_f20 : sum16 ([0x42, 0x4D, 0x00, 0x14] ++ p20) = 0x011F := by decide +kernel

/-! Reset memory is in canonical form. -/

theorem test_reset_memory_wf : State.reset.txbuf.wf TX_CAP = true ∧ State.reset.frmData.wf PAY_CAP = true ∧
    State.reset.rxbuf.wf MB_CAP = true ∧ State.reset.pay.wf PAY_CAP = true := by decide
theorem test_write_of_unlisted_value_removes : Memory.write [(3, 0x55), (4, 0x66)] 3 0x00 = [(4, 0x66)] := by decide

/-! One step an instruction. -/

/-- V-H1. -/
theorem test_reset : view (exec .reset { State.reset with rxsel := true, cfgErr := true, mbCrc := 0, discCnt := 7 })
    (fun t => (t.rxsel, hostRead t 0x002, t.mbCrc, t.discCnt)) = some (false, 0, 0xFFFF, 0) := by decide
/-- V-M10, first byte; V-I12. -/
theorem test_rx_collector : view (exec (.rx 0xFE) (armedCrc 7 0)) (fun t => (t.mbIdx, t.mbCrc, t.rxbuf.read 0)) =
    some (1, 0xC03E, 0xFE) := by decide
/-- V-T5: `0x0114` is not 20. -/
theorem test_rx_bad_length : view (exec (.rx 0x14) (cfdAt .readLenLo 3 0x0100)) (fun t => (t.cfdSt, t.discCnt, t.discCause)) =
    some (.seekHeader0, 1, .badLength) := by decide
/-- V-H2, arming legality: 519 is stored as 7. -/
theorem test_wr_truncates : view (exec (.wr 0x013 519) State.reset) (fun t => (t.mbExpLen, hostRead t 0x002)) =
    some (7, 0x0000) := by decide
/-- V-H2: the whole 16-bit value is compared with 8. -/
theorem test_wr_txlen_refused : view (exec (.wr 0x017 0x0018) State.reset) (fun t => (t.txLen, hostRead t 0x002)) =
    some (0, 0x0040) := by decide
/-- V-H1. -/
theorem test_rd_mb_crc : view (exec (.rd 0x016) State.reset) (fun t => t.out) = some [.rdata 0xFFFF] := by decide
theorem test_rd_unmapped : view (exec (.rd 0x204) { State.reset with rxbuf := [(259, 0x11)] }) (fun t => t.out) =
    some [.rdata 0x0000] := by decide
/-- V-H3. -/
theorem test_nop : view (exec .cmdNop { State.reset with cfgErr := true }) (fun t => hostRead t 0x002) = some 0x0040 := by decide
/-- V-T23. -/
theorem test_sync_clr : view (exec .cmdSyncClr { cfdAt .readPayload 9 28 with cfdSum := 0x00CE, discCnt := 3 })
    (fun t => (t.cfdSt, t.cfdIdx, t.cfdSum, t.cfdLen, t.discCnt)) = some (.seekHeader0, 0, 0, 0, 3) := by decide
/-- V-T10. -/
theorem test_frm_ack : view (exec .cmdFrmAck { State.reset with frmValid := true, frmOvr := true, frmLen := 20 })
    (fun t => (hostRead t 0x002, t.frmLen)) = some (0x0000, 20) := by decide
/-- R207. -/
theorem test_diag_clr : view (exec .cmdDiagClr { State.reset with discCnt := 5, discCause := .badLength })
    (fun t => (t.discCnt, t.discCause)) = some (0, .none) := by decide
/-- V-H4. -/
theorem test_flag_clr : view (exec .cmdFlagClr { State.reset with encErr := true, cfgErr := true }) (fun t => hostRead t 0x002) =
    some 0x0000 := by decide
/-- V-M1. -/
theorem test_mb_encode : view (exec .cmdMbEncode (operands 0x04 0x0003 0x0001))
    (fun t => (t.txbuf.readBytes 8, t.txLen, hostRead t 0x002)) = some (q1, 8, 0x0000) := by decide +kernel
/-- V-M8. -/
theorem test_mb_encode_zero_count : view (exec .cmdMbEncode (operands 0x04 0x0003 0x0000))
    (fun t => (t.txbuf, t.txLen, hostRead t 0x002)) = some ([], 0, 0x0020) := by decide
/-- Arming legality, `n = 260` and `n = 261`. -/
theorem test_mb_arm : view (exec .cmdMbArm { State.reset with mbExpLen := 260 }) (fun t => hostRead t 0x002) =
    some 0x0004 := by decide
theorem test_mb_arm_refused : view (exec .cmdMbArm { State.reset with mbExpLen := 261 }) (fun t => hostRead t 0x002) =
    some 0x0040 := by decide
/-- Abort. -/
theorem test_mb_abort : view (exec .cmdMbAbort { armedCrc 7 3 with mbCrc := 0x3193 })
    (fun t => (hostRead t 0x002, t.mbIdx, t.mbCrc)) = some (0x0000, 3, 0x3193) := by decide
/-- V-T2. -/
theorem test_tframe20 : view (exec (.tframe20 p20 0x011F) State.reset)
    (fun t => (t.out.getLast?, hostRead t 0x002, t.frmLen, t.cfdSt)) = some (some (.frame 20 p20), 0x0001, 20, .seekHeader0) := by decide
/-- V-T12. -/
theorem test_tframe20_corrupt : view (exec (.tframe20 p20 0x011E) State.reset)
    (fun t => (t.out.getLast?, t.discCnt, t.discCause)) = some (some .none, 1, .badChecksum) := by decide
/-- V-T1. -/
theorem test_tframe28 : view (exec (.tframe28 p28 0x039C) State.reset)
    (fun t => (t.out.getLast?, hostRead t 0x002, t.frmLen)) = some (some (.frame 28 p28), 0x0001, 28) := by decide
/-- V-T11, FM28. -/
theorem test_tframe28_largest_sum : view (exec (.tframe28 (List.replicate 26 0xFF) 0x1A91) State.reset)
    (fun t => (t.discCnt, t.frmLen, t.frmData.read 25)) = some (0, 28, 0xFF) := by decide
/-- V-M22 for the first read code: Q3 as its own echo. -/
theorem test_mbreq_read_a : view (exec (.mbreqReadA 0x0000 0x0004 0x0650)
    (armedEcho [0xFE, 0x03, 0x00, 0x00, 0x00, 0x04, 0x50, 0x06] 8)) (fun t => (t.out.getLast?, t.mbCrc)) =
    some (some (.mbresult true 0), 0xFFFF) := by decide
/-- Request bytes offered as a response: Q1 with `EXPECT_CRC 8`. -/
theorem test_mbreq_read_b : view (exec (.mbreqReadB 0x0003 0x0001 0xC5D5) { armedCrc 8 0 with mbCrc := 0xFFFF })
    (fun t => (t.out.getLast?, hostRead t 0x002)) = some (some (.mbresult false 0x08), 0x0008) := by decide +kernel
/-- V-M22. -/
theorem test_mbreq_write : view (exec (.mbreqWrite 0x0001 0x0000 0x05CC) (armedEcho q2 8))
    (fun t => (t.out.getLast?, hostRead t 0x002)) = some (some (.mbresult true 0x00), 0x0018) := by decide
/-- V-M23: last byte `04`. -/
theorem test_mbreq_write_other_echo : view (exec (.mbreqWrite 0x0001 0x0000 0x04CC) (armedEcho q2 8))
    (fun t => (t.out.getLast?, hostRead t 0x002)) = some (some (.mbresult false 0x10), 0x0008) := by decide

/-- The machine runs a placed word as its first instruction after reset. -/
theorem test_step_placed_word : view (step (State.reset.withFetchWord 32 0x30160000)) (fun t => (t.out, t.input)) =
    some ([.rdata 0xFFFF], []) := by decide
theorem test_step_placed_frame : view (step (State.reset.withFetchWord 64 0xC5D50100030004FE)) (fun t => t.out.length) =
    some 8 := by decide

/-- The averaging example of R235. -/
theorem test_averaging : averageSamples 300 10000 [400, 450, 1, 500, 420] = some (1770, 4) := by decide
/-- R225, R221: two reads, of which the first takes the frame and the second fails at its budget. -/
theorem test_averaged_read :
    (match averagedRead { budget := 10, delay := 5, lo := 0, hi := 100 } (fun t => (t.payloadWord 1).toNat) 2 0
        [(0, telemetryBytes 0x14 p20 0x011F), (7, []), (20, [])] State.reset with
      | .mean sum count _ => some (sum, count)
      | _ => none) = some (25, 1) := by decide +kernel
/-- The session's path of R229; an invalid result does not make it ready, and there is no arrow from READY to CLOSED. -/
theorem test_session_path :
    [SessionEvent.openTransport, .output (.frame 20 []), .serve, .close].foldl SessionState.next .uninitialized = .closed := by decide
theorem test_session_stays : SessionState.initializing.next (.output (.mbresult false 1)) = .initializing ∧
    SessionState.ready.next .close = .ready := by decide
/-- R228, P2: the response A1 arrives in two polls after a stale byte; the request sent is Q1. -/
theorem test_round_trip :
    (match roundTrip (.read 0x04 0x0003 0x0001) 1 100
        { polls := [(1, [0x77]), (5, [0xFE, 0x04, 0x02]), (9, [0x01, 0x90, 0xAC, 0xD8])], written := [] } State.reset with
      | .valid data t port => some (data, hostRead t 0x002, port.written)
      | _ => none) = some ([0x01, 0x90], 0x0018, q1) := by decide +kernel
/-- R228 step 3: a rejected request is not sent; an immediate buffer is, with ENC_ERR left from before. -/
theorem test_round_trip_rejected :
    (match roundTrip (.read 0x04 0x0003 0x0000) 0 100 { polls := [], written := [] } State.reset with
      | .rejected t port => some (hostRead t 0x002, port.written)
      | _ => none) = some (0x0020, []) := by decide +kernel
theorem test_round_trip_immediate :
    (match roundTrip (.immediate [0xAA, 0xBB] false) 0 100 { polls := [], written := [] } { State.reset with encErr := true } with
      | .sent t port => some (hostRead t 0x002, port.written)
      | _ => none) = some (0x0020, [0xAA, 0xBB]) := by decide +kernel
/-- The words of F28 (R158). -/
theorem test_payload_words :
    { State.reset with frmLen := 28, frmData := Memory.writeBytes [] 0 p28 }.payloadWords =
      [10, 25, 30, 9, 22, 28, 1500, 430, 70, 10, 3, 1, 0x9100] := by decide +kernel
theorem test_named_fields :
    { State.reset with frmLen := 20, frmData := Memory.writeBytes [] 0 p20 }.namedFields [("second", 1), ("last", 12)] =
      [("second", 25)] := by decide +kernel
/-- V-M24: the expansion of LOADTX. -/
theorem test_load_tx : (Pseudo.loadTx [0xAA, 0xBB]).expand = [.wr 0x020 0x00AA, .wr 0x021 0x00BB, .wr 0x017 2] := by decide

/-! Witnesses: a state and operands that meet all the hypotheses of a statement together. -/

theorem witness_default_distinct : Config.default.Distinct := ⟨by decide, by decide, by decide⟩

theorem witness_DecodeOfEncode : Config.default.Distinct ∧ (Instr.tframe28 p28 0x039C).wellFormed = true ∧
    (Instr.wr 0xFFF 0xFFFF).wellFormed = true := ⟨witness_default_distinct, by decide, by decide⟩

theorem witness_EncodeOfDecode : decode Config.default (.word 0x20010110) = .ok (.wr 0x001 0x0110) ∧
    decode Config.default (.frame q1) = .ok (.mbreqReadB 0x0003 0x0001 0xC5D5) := ⟨rfl, rfl⟩

/-- Each reserved clause at its boundary, and the largest word that is none. -/
theorem witness_ReservedWordsRefusedByName :
    step { State.reset with input := [.word 0x40000000] } = .refused .reservedEventWord ∧
    step { State.reset with input := [.word 0xFFFFFFFF] } = .refused .reservedEventWord ∧
    step { State.reset with input := [.word 0x00000001] } = .refused .reservedEventWord ∧
    step { State.reset with input := [.word 0x10000100] } = .refused .reservedEventWord ∧
    step { State.reset with input := [.word 0x30000001] } = .refused .reservedEventWord ∧
    view (step { State.reset with input := [.word 0x3FFF0000] }) (fun t => t.out) = some [.rdata 0] :=
  ⟨rfl, rfl, rfl, rfl, rfl, by decide⟩

theorem witness_StepRunsDecoded :
    decode State.reset.cfg (.word 0x10000042) = .ok (.rx 0x42) ∧
    decode State.reset.cfg (tokenOfTableWord State.reset.cfg 64 0xC5D50100030004FE) = .ok (.mbreqReadB 0x0003 0x0001 0xC5D5) ∧
    State.reset.input = [] := ⟨rfl, rfl, rfl⟩

theorem witness_AdmissibleSumsAreBounded : p20.length = 18 ∧ p28.length = 26 ∧
    (sum16 ([0x42, 0x4D, 0x00, 0x14] ++ List.replicate 18 0xFF)).toNat = 4753 ∧
    (sum16 ([0x42, 0x4D, 0x00, 0x1C] ++ List.replicate 26 0xFF)).toNat = 6801 := by decide

theorem witness_SumDetectsOneByteNotSwaps : 17 < p20.length ∧ p20[17]? ≠ some 0x01 := by decide

theorem witness_HeaderBytes : (cfdAt .seekHeader0 0 0).rxsel = false ∧ (cfdAt .seekHeader0 0 0).cfdPositionOk = true ∧
    (cfdAt .seekHeader1 1 0).rxsel = false ∧ (cfdAt .seekHeader1 1 0).cfdPositionOk = true := by decide

/-- Both states, with the length fields on either side of the admissible ones. -/
theorem witness_LengthBytes : (cfdAt .readLenHi 2 0).rxsel = false ∧ (cfdAt .readLenHi 2 0).cfdPositionOk = true ∧
    (cfdAt .readLenLo 3 0xFF00).rxsel = false ∧ (cfdAt .readLenLo 3 0xFF00).cfdPositionOk = true ∧
    view (exec (.rx 20) (cfdAt .readLenLo 3 0)) (·.cfdSt) = some .readPayload ∧
    view (exec (.rx 28) (cfdAt .readLenLo 3 0)) (·.cfdSt) = some .readPayload ∧
    view (exec (.rx 19) (cfdAt .readLenLo 3 0)) (·.cfdSt) = some .seekHeader0 ∧
    view (exec (.rx 29) (cfdAt .readLenLo 3 0)) (·.cfdSt) = some .seekHeader0 := by decide

/-- The first and the last payload position of either frame kind. -/
theorem witness_PayloadByte : (cfdAt .readPayload 4 20).cfdPositionOk = true ∧ (cfdAt .readPayload 21 20).cfdPositionOk = true ∧
    (cfdAt .readPayload 4 28).cfdPositionOk = true ∧ (cfdAt .readPayload 29 28).cfdPositionOk = true ∧
    (cfdAt .readPayload 29 28).rxsel = false ∧ (cfdAt .readPayload 30 28).cfdPositionOk = false := by decide

theorem witness_ChecksumBytes : (cfdAt .readChecksumHi 22 20).rxsel = false ∧
    (cfdAt .readChecksumHi 22 20).cfdPositionOk = true ∧ (cfdAt .readChecksumLo 31 28).rxsel = false ∧
    (cfdAt .readChecksumLo 31 28).cfdPositionOk = true := by decide

theorem witness_UnreachableStatesFault :
    ((cfdAt .readPayload 3 20).rxsel = false ∧ (cfdAt .readPayload 3 20).cfdPositionOk = false) ∧
    ((armedCrc 4 0).rxsel = true ∧ (armedCrc 4 0).mbOut = true ∧ (armedCrc 4 0).expectedLenLegal = false) ∧
    (armedCrc 261 0).expectedLenLegal = false ∧
    (armedCrc 7 7).expectedLen ≤ (armedCrc 7 7).mbIdx.toNat ∧ { armedCrc 7 0 with mbDone := true }.mbDone = true := by decide

theorem witness_seeking : State.reset.rxsel = false ∧ State.reset.Seeking := ⟨rfl, rfl, rfl, rfl, rfl, rfl⟩

theorem witness_WellFormedFrameEmitted : State.reset.rxsel = false ∧ State.reset.Seeking ∧ p20.length = 18 ∧ p28.length = 26 :=
  ⟨rfl, witness_seeking.2, by decide, by decide⟩

theorem witness_PayloadWordsAreBigEndian : State.reset.rxsel = false ∧ State.reset.Seeking ∧ p20.length = 18 ∧ p28.length = 26 :=
  witness_WellFormedFrameEmitted

theorem witness_CorruptChecksumDiscarded : State.reset.rxsel = false ∧ State.reset.Seeking ∧
    (p20.length = 18 ∧ (0x011E : Half) ≠ sum16 ([0x42, 0x4D, 0x00, 0x14] ++ p20)) ∧
    (p28.length = 26 ∧ (0x839C : Half) ≠ sum16 ([0x42, 0x4D, 0x00, 0x1C] ++ p28)) :=
  ⟨rfl, witness_seeking.2, by decide, by decide⟩

theorem witness_OneFrameInNoise : State.reset.rxsel = false ∧ State.reset.Seeking ∧ (0x42 : Byte) ∉ [0x00, 0xFF, 0x4D, 0x41, 0x43] ∧
    (((0x14 : Byte) = 0x14 ∧ p20.length = 18) ∨ ((0x14 : Byte) = 0x1C ∧ p20.length = 26)) ∧
    (((0x1C : Byte) = 0x14 ∧ p28.length = 18) ∨ ((0x1C : Byte) = 0x1C ∧ p28.length = 26)) :=
  ⟨rfl, witness_seeking.2, by decide, by decide, by decide⟩

theorem witness_BackInSeekWithin31Bytes : (cfdAt .seekHeader1 1 0).rxsel = false ∧
    (cfdAt .seekHeader1 1 0).cfdPositionOk = true ∧ (cfdAt .seekHeader1 1 0).cfdSt ≠ .seekHeader0 ∧
    (List.replicate 31 (0x4D : Byte)).length = 31 := by decide

theorem witness_OneUnitReceivesAByte : (∃ t, exec (.rx 0x42) State.reset = .next t) ∧ State.reset.rxsel = false ∧
    (∃ t, exec (.rx 0xFE) (armedCrc 5 4) = .next t) ∧ (armedCrc 5 4).rxsel = true := ⟨⟨_, rfl⟩, rfl, ⟨_, rfl⟩, rfl⟩

theorem witness_MalformedInputLeavesOnlyDiagnostics : (cfdAt .readLenLo 3 0xFF00).rxsel = false ∧
    (cfdAt .readLenLo 3 0xFF00).cfdPositionOk = true ∧
    view (exec (.rx 0x15) (cfdAt .readLenLo 3 0)) (fun t => (t.out, t.discCnt)) = some ([.none], 1) := by decide

theorem witness_CommandDispatch :
    (0x0005 : Half) ∉ [(0x0000 : Half), 0x0001, 0x0002, 0x0003, 0x0004, 0x0010, 0x0011, 0x0012] ∧
    (0xFFFF : Half) ∉ [(0x0000 : Half), 0x0001, 0x0002, 0x0003, 0x0004, 0x0010, 0x0011, 0x0012] := by decide

theorem witness_EncodeBuildsTheRequest_accepted : (operands 0x04 0xFFFF 0x0001).mbOut = false ∧
    ((operands 0x04 0xFFFF 0x0001).mbFunc = Config.default.rfB ∧ 1 ≤ (operands 0x04 0xFFFF 0x0001).mbVal.toNat) ∧
    (operands 0x03 0x0000 0xFFFF).mbFunc = Config.default.rfA ∧ (operands 0x06 0x0001 0x0000).mbFunc = Config.default.wf := by
  decide

theorem witness_EncodeBuildsTheRequest_rejected :
    ((operands 0x04 3 0).mbOut = false ∧
      ¬ (((operands 0x04 3 0).mbFunc = (operands 0x04 3 0).cfg.rfA ∨ (operands 0x04 3 0).mbFunc = (operands 0x04 3 0).cfg.rfB) ∧
          1 ≤ (operands 0x04 3 0).mbVal.toNat ∨ (operands 0x04 3 0).mbFunc = (operands 0x04 3 0).cfg.wf)) ∧
    (armedCrc 5 0).mbOut = true := by decide

/-- Both branches, at the ends of both legal ranges. -/
theorem witness_ArmExactlyWhenLegal :
    view (exec .cmdMbArm { State.reset with mbExpLen := 5 }) (·.mbOut) = some true ∧
    view (exec .cmdMbArm { State.reset with mbExpLen := 4 }) (·.mbOut) = some false ∧
    view (exec .cmdMbArm { State.reset with mbVmode := .echo, txLen := 1 }) (·.mbOut) = some true ∧
    view (exec .cmdMbArm { State.reset with mbVmode := .echo, txLen := 0 }) (·.mbOut) = some false := by decide

theorem witness_CollectorByte : { State.reset with rxsel := true }.mbOut = false ∧
    ((armedCrc 260 258).rxsel = true ∧ (armedCrc 260 258).mbOut = true ∧ (armedCrc 260 258).mbDone = false ∧
      (armedCrc 260 258).expectedLenLegal = true ∧ (armedCrc 260 258).mbIdx.toNat + 1 < (armedCrc 260 258).expectedLen) ∧
    (armedCrc 260 257).mbIdx.toNat + 2 < (armedCrc 260 257).expectedLen := by decide

theorem witness_CompletionVerdict :
    ((armedCrc 260 259).rxsel = true ∧ (armedCrc 260 259).mbOut = true ∧ (armedCrc 260 259).mbDone = false ∧
      (armedCrc 260 259).expectedLenLegal = true ∧ (armedCrc 260 259).mbIdx.toNat + 1 = (armedCrc 260 259).expectedLen ∧
      (armedCrc 260 259).mbVmode = .crc) ∧
    ((armedEcho [0x55] 1).expectedLenLegal = true ∧ (armedEcho [0x55] 1).mbIdx.toNat + 1 = (armedEcho [0x55] 1).expectedLen ∧
      (armedEcho [0x55] 1).mbVmode = .echo) ∧
    (∀ j, ((armedCrc 5 4).rxbuf.write 4 0xF0).read j = if j = (armedCrc 5 4).mbIdx.toNat then 0xF0 else (armedCrc 5 4).rxbuf.read j) := by
  refine ⟨by decide, by decide, fun j => ?_⟩
  have h : ((armedCrc 5 4).rxbuf.write 4 0xF0) = [(4, 0xF0)] := rfl
  have h4 : (armedCrc 5 4).mbIdx.toNat = 4 := rfl
  have hr : (armedCrc 5 4).rxbuf = [] := rfl
  rw [h, h4, hr]
  by_cases hj : j = 4
  · subst hj; rfl
  · rw [if_neg hj]; exact if_neg (Ne.symm hj)

/-- V-M20, the shortest response. -/
theorem witness_WholeResponseJudged : { armedCrc 5 0 with mbCrc := 0xFFFF }.rxsel = true ∧ (armedCrc 5 0).mbOut = true ∧
    (armedCrc 5 0).mbDone = false ∧ (armedCrc 5 0).mbVmode = .crc ∧ (armedCrc 5 0).expectedLenLegal = true ∧
    (armedCrc 5 0).mbIdx = 0 ∧ (armedCrc 5 0).mbCrc = 0xFFFF ∧ [0xFE, 0x04, 0x00, 0x12, (0xF0 : Byte)].length = (armedCrc 5 0).expectedLen := by
  decide

/-- One register, and the most a response can carry. -/
theorem witness_ReadExchangeRoundTrip : State.reset.mbOut = false ∧ ((0x04 : Byte) = State.reset.cfg.rfA ∨ (0x04 : Byte) = State.reset.cfg.rfB) ∧
    1 ≤ (0x0001 : Half).toNat ∧ 5 + 2 * (0x007F : Half).toNat ≤ 260 ∧ [0x01, (0x90 : Byte)].length = 2 * (0x0001 : Half).toNat ∧
    (List.replicate 254 (0x00 : Byte)).length = 2 * (0x007F : Half).toNat := by decide +kernel

theorem witness_EchoOfTheRequestIsValid : (armedEcho q2 8).rxsel = true ∧ (armedEcho q2 8).mbOut = true ∧
    (armedEcho q2 8).mbDone = false ∧ (armedEcho q2 8).mbVmode = .echo ∧ (armedEcho q2 8).txLen = 8 ∧ (armedEcho q2 8).mbIdx = 0 ∧
    (armedEcho q2 8).txbuf.readBytes 8 = requestBytes (armedEcho q2 8).cfg.devAddr (armedEcho q2 8).cfg.wf 0x0001 0x0000 0x05CC := by
  decide

theorem witness_RequestIsNotAResponse : (armedCrc 8 0).cfg.Distinct ∧ (armedCrc 8 0).rxsel = true ∧ (armedCrc 8 0).mbOut = true ∧
    (armedCrc 8 0).mbDone = false ∧ (armedCrc 8 0).mbVmode = .crc ∧ (armedCrc 8 0).mbExpLen = 8 ∧ (armedCrc 8 0).mbIdx = 0 :=
  ⟨witness_default_distinct, by decide⟩

theorem witness_HostWriteStores : State.reset.mbOut = false ∧ (0x0008 : Half).toNat ≤ 8 ∧ (0x027 : RegNum) ∈ txbufRegs := by decide

/-- Each clause at a boundary. -/
theorem witness_HostWriteRefused :
    view (exec (.wr 0x002 0) State.reset) (·.cfgErr) = some true ∧ view (exec (.wr 0x00F 0) State.reset) (·.cfgErr) = some true ∧
    view (exec (.wr 0x015 0) State.reset) (·.cfgErr) = some true ∧ view (exec (.wr 0x016 0) State.reset) (·.cfgErr) = some true ∧
    view (exec (.wr 0x01F 0) State.reset) (·.cfgErr) = some true ∧ view (exec (.wr 0x028 0) State.reset) (·.cfgErr) = some true ∧
    view (exec (.wr 0xFFF 0) State.reset) (·.cfgErr) = some true ∧ view (exec (.wr 0x017 9) State.reset) (·.cfgErr) = some true ∧
    view (exec (.wr 0x027 0) (armedCrc 7 0)) (·.cfgErr) = some true ∧ view (exec (.wr 0x027 0) State.reset) (·.cfgErr) = some false := by
  decide

/-- The ends of the mapped ranges. -/
theorem witness_HostReadOutputs : (0x059 : RegNum).toNat = 0x040 + 25 ∧ (0x203 : RegNum).toNat = 0x100 + 259 ∧
    (0x027 : RegNum).toNat = 0x020 + 7 ∧ hostRead { State.reset with frmData := [(25, 0x77)] } 0x059 = 0x0077 ∧
    hostRead { State.reset with rxbuf := [(259, 0x77)] } 0x203 = 0x0077 ∧
    hostRead { State.reset with cfdSt := .readChecksumLo } 0x004 = 6 ∧
    hostRead { State.reset with discCause := .badChecksum } 0x00A = 3 := by decide

theorem witness_RequestSlotLockedWhileOutstanding : (armedCrc 7 0).mbOut = true ∧
    ∃ t, exec (.wr 0x013 9) (armedCrc 7 0) = .next t ∧ t.mbOut = true := ⟨rfl, _, rfl, rfl⟩

theorem witness_LockedAccessesRefused : (armedCrc 7 0).mbOut = true ∧ (0x020 : RegNum) ∈ txbufRegs ∧
    ∃ t, exec (.rx 0xFE) (armedCrc 7 0) = .next t := ⟨rfl, by decide, _, rfl⟩

/-- Kept by a byte and by a refused arming, cleared by each of the three that may clear it. -/
theorem witness_JudgedExchangeIsKept : { armedCrc 5 0 with mbOut := false, mbDone := true, mbFail := 2 }.mbDone = true ∧
    view (exec (.rx 0xFE) { armedCrc 5 0 with mbOut := false, mbDone := true, mbFail := 2 }) (fun t => (t.mbDone, t.mbFail)) =
      some (true, 2) ∧
    view (exec .cmdMbArm { armedCrc 4 0 with mbOut := false, mbDone := true, mbFail := 2 }) (fun t => (t.mbDone, t.mbFail)) =
      some (true, 2) ∧
    view (exec .cmdMbArm { armedCrc 5 0 with mbOut := false, mbDone := true, mbFail := 2 }) (·.mbDone) = some false ∧
    view (exec (.wr 0x001 0x0011) { armedCrc 5 0 with mbOut := false, mbDone := true, mbFail := 2 }) (·.mbDone) = some false ∧
    view (exec .reset { armedCrc 5 0 with mbOut := false, mbDone := true, mbFail := 2 }) (·.mbDone) = some false := by decide

theorem witness_OnlyBytesEmitResults : Instr.cmdMbArm ∈ [Instr.reset, .cmdNop, .cmdMbArm] ∧ ∃ r v, Instr.wr 0x017 9 = .wr r v :=
  ⟨by decide, _, _, rfl⟩

theorem witness_LatchedFrameOnlyByEmission : Instr.rx 0x42 ≠ .reset ∧
    ∃ t, exec (.rx 0x42) State.reset = .next t ∧ ∀ o ∈ outputsSince State.reset t, o.isFrame = false :=
  ⟨by decide, _, rfl, by decide⟩

theorem witness_CfgErrIsSticky :
    (∃ t, exec .cmdFlagClr { State.reset with cfgErr := true } = .next t ∧ t.cfgErr = false) ∧
    (∃ t, exec (.wr 0x00C 1) State.reset = .next t ∧ State.reset.cfgErr = false ∧ t.cfgErr = true) ∧
    (∃ t, exec .cmdMbArm State.reset = .next t ∧ t.cfgErr = true) := ⟨⟨_, rfl, rfl⟩, ⟨_, rfl, rfl, rfl⟩, ⟨_, rfl, rfl⟩⟩

/-- Mid-frame and mid-exchange at once: the first byte of A1 collected, and `42 4D 00 14 0A` received before. -/
def busy : State :=
  { State.reset with
    input := [.word 0x10000004], rxsel := true, cfdSt := .readPayload, cfdIdx := 5, cfdLen := 20, cfdSum := 0x00AD, pay := [(0, 0x0A)]
    discCnt := 1, discCause := .badHeader1, mbOut := true, mbExpLen := 7, mbIdx := 1, mbCrc := 0xC03E, rxbuf := [(0, 0xFE)] }

theorem witness_busy_inv : busy.Inv where
  position := by decide
  sum := by decide
  checksumHigh := by decide
  frmLen := by decide
  frmTail := fun _ _ => rfl
  frmValid := by decide
  frmOvr := by decide
  doneNotOut := by decide
  valid := by decide
  failOnlyDone := by decide
  armed := by decide
  runningCrc := by decide
  echoCrc := by decide
  mbIdx := by decide
  discard := by decide
  txbufWf := by decide
  frmDataWf := by decide
  rxbufWf := by decide
  payWf := by decide

theorem witness_StepKeepsInvariant : busy.Inv ∧ ∃ t, step busy = .next t ∧ t.mbIdx = 2 ∧ t.mbCrc = 0x1340 :=
  ⟨witness_busy_inv, _, rfl, by decide, by decide⟩

theorem witness_EveryInstructionCompletes : busy.Inv := witness_busy_inv

/-- Just before and exactly at the budget. -/
theorem witness_EmptyBlockingReadTimesOutAtBudget :
    blockingRead 3 5 [(7, [])] State.reset = .waiting State.reset ∧
    blockingRead 3 5 [(7, []), (8, []), (9, [])] State.reset = .timeout State.reset 8 [(9, [])] := by decide

theorem witness_NonBlockingReadReportsFrmValid : { busy with rxsel := false, mbOut := false }.rxsel = false ∧
    { busy with rxsel := false, mbOut := false }.frmValid = false ∧ { busy with rxsel := false, mbOut := false }.Inv :=
  ⟨rfl, rfl, { witness_busy_inv with armed := nofun, runningCrc := nofun, echoCrc := nofun, doneNotOut := fun _ => rfl }⟩

theorem witness_WarmUpLatches : ({ initTime := 5, interval := 10, ready := false } : WarmUp).ready = false ∧
    ([14].foldl WarmUp.ask { initTime := 5, interval := 10, ready := false }).ready = false ∧
    ([15, 3].foldl WarmUp.ask { initTime := 5, interval := 10, ready := false }).ready = true := by decide

theorem witness_AveragingTakesAcceptedSamples : averageSamples 300 10000 [299, 10000] = none ∧
    averageSamples 300 10000 [300, 9999, 10000] = some (10299, 2) := by decide

theorem witness_Crc16IsTheBitRecurrence : crc16 ([] ++ [0x00]) = 0x40BF := by decide

/-- A stale byte at the very start, and the shortest budget. -/
theorem witness_RoundTripDeliversTheData : State.reset.mbOut = false ∧
    ((0x04 : Byte) = State.reset.cfg.rfA ∨ (0x04 : Byte) = State.reset.cfg.rfB) ∧ 1 ≤ (0x0001 : Half).toNat ∧
    5 + 2 * (0x0001 : Half).toNat ≤ 260 ∧ [0x01, (0x90 : Byte)].length = 2 * (0x0001 : Half).toNat ∧ 1 ≤ 1 ∧
    (∀ q ∈ [((7 : Nat), [(0x77 : Byte)])], q.1 ≤ 7) ∧ 7 < 8 ∧ ∀ q ∈ [((8 : Nat), [(0x42 : Byte)])], 7 < q.1 := by decide

/-- Both kinds; a poll one before the budget, and one exactly at it. -/
theorem witness_SilentExchangeIsAborted : State.reset.mbOut = false ∧
    ((0x04 : Byte) = State.reset.cfg.rfA ∨ (0x04 : Byte) = State.reset.cfg.rfB) ∧ 1 ≤ (0x007F : Half).toNat ∧
    5 + 2 * (0x007F : Half).toNat ≤ 260 ∧ (0x06 : Byte) = State.reset.cfg.wf ∧ (∀ time ∈ [9, 14], time - 10 < 5) ∧ 10 + 5 ≤ 15 ∧
    ∀ q ∈ [((11 : Nat), [(0x42 : Byte)])], 10 < q.1 := by decide

theorem witness_ImmediateBufferExchange : { State.reset with encErr := true }.mbOut = false ∧ 1 ≤ [(0xAA : Byte)].length ∧
    [(0xAA : Byte)].length ≤ 8 ∧ 1 ≤ q1.length ∧ q1.length ≤ 8 ∧ 10 < 11 := by decide

/-- A read of 0 registers, and a code that is none of the three. -/
theorem witness_RejectedRequestIsNotSent : State.reset.mbOut = false ∧
    (¬ ((lo8 0x0004 = State.reset.cfg.rfA ∨ lo8 0x0004 = State.reset.cfg.rfB) ∧ 1 ≤ (0x0000 : Half).toNat ∨
      lo8 0x0004 = State.reset.cfg.wf)) ∧
    ¬ ((lo8 0x0010 = State.reset.cfg.rfA ∨ lo8 0x0010 = State.reset.cfg.rfB) ∧ 1 ≤ (0x0001 : Half).toNat ∨
      lo8 0x0010 = State.reset.cfg.wf) := by decide

theorem witness_AveragedReadTakesOneFrameARead : State.reset.rxsel = false ∧ State.reset.Seeking ∧
    (∀ p ∈ [p20, List.replicate 18 0xFF], p.length = 18) ∧ 8 < 9 := ⟨rfl, witness_seeking.2, by decide, by decide⟩

theorem witness_SessionMovesAreThoseOfR229 :
    SessionState.initializing.next (.output (.mbresult true 0)) = .ready ∧
    SessionState.initializing.next .initTimeout = .failed ∧ SessionState.initializing.next .capabilityCheckFailed = .failed ∧
    SessionState.uninitialized.next .openTransport = .initializing ∧ SessionState.ready.next .serve = .operating ∧
    SessionState.operating.next .close = .closed := by decide

theorem witness_SessionOpensOnTheFirstValidOutput : p20.length = 18 ∧
    ((0x03 : Byte) = State.reset.cfg.rfA ∨ (0x03 : Byte) = State.reset.cfg.rfB) ∧ 1 ≤ (0x0001 : Half).toNat ∧
    5 + 2 * (0x0001 : Half).toNat ≤ 260 ∧ [0x01, (0x90 : Byte)].length = 2 * (0x0001 : Half).toNat ∧
    ∃ time ∈ [12, 15], 10 + 5 ≤ time := by decide

end Sys2Proof.Machine.Tests
end

section
/-! SUPPORT. The events whose one output is fixed beforehand (R13): refusals, the lock, RESET, commands, host writes and host
reads. -/

namespace Sys2Proof.Machine

/-- The answer is a next state, with the one output `o` after those of `s` (R13). -/
def CompletesWith (o : Output) (s : State) (r : Result) : Prop := ∃ t, r = .next t ∧ t.out = s.out ++ [o]

theorem completesWith_emit {s u : State} (o : Output) (h : u.out = s.out) : CompletesWith o s (.next (u.emit o)) :=
  ⟨u.emit o, rfl, by rw [State.emit_out, h]⟩

/-- R204. -/
theorem completesWith_refuse (s : State) : CompletesWith .none s (refuse s) := completesWith_emit .none rfl

/-- R43: a locked access completes where its unlocked part does. -/
theorem completesWith_unlessArmed {s : State} {k : State → Result} (h : CompletesWith .none s (k s)) :
    CompletesWith .none s (unlessArmed s k) := by
  cases hm : s.mbOut with
  | true => simpa only [unlessArmed_out k hm] using completesWith_refuse s
  | false => simpa only [unlessArmed_free k hm] using h

/-- The eight command rows of R84. -/
def commandInstrs : List Instr :=
  [.cmdNop, .cmdSyncClr, .cmdFrmAck, .cmdDiagClr, .cmdFlagClr, .cmdMbEncode, .cmdMbArm, .cmdMbAbort]

/-- R84: an opcode names one of the eight command rows. -/
theorem commandOf_mem {v : Half} {i : Instr} (h : commandOf v = some i) : i ∈ commandInstrs := by
  unfold commandOf at h
  split_ifs at h <;> cases h <;> decide

/-- R205, R84: CMD runs the command its data is the opcode of, and refuses every other value. -/
theorem execCommand_eq (v : Half) (s : State) :
    execCommand v s = ((commandOf v).map fun i => exec i s).getD (refuse s) := by
  unfold execCommand commandOf
  split_ifs <;> rfl

theorem completesWith_execCmdMbEncode (s : State) : CompletesWith .none s (execCmdMbEncode s) :=
  completesWith_unlessArmed <| by
    split
    · exact completesWith_emit .none rfl
    · exact completesWith_emit .none rfl

theorem completesWith_execCmdMbArm (s : State) : CompletesWith .none s (execCmdMbArm s) :=
  completesWith_unlessArmed <| by
    split
    · exact completesWith_emit .none rfl
    · exact completesWith_refuse s

/-- R151, R152, R170, R176, R184, R206 to R208: a command outputs `none`, accepted or refused. -/
theorem completesWith_command {i : Instr} (hi : i ∈ commandInstrs) (s : State) : CompletesWith .none s (exec i s) := by
  simp only [commandInstrs, List.mem_cons, List.not_mem_nil, or_false] at hi
  obtain rfl | rfl | rfl | rfl | rfl | rfl | rfl | rfl := hi
  · exact completesWith_emit (u := s) .none rfl
  · exact completesWith_emit (u := s.cfdResync) .none rfl
  · exact completesWith_emit .none rfl
  · exact completesWith_emit .none rfl
  · exact completesWith_emit .none rfl
  · exact completesWith_execCmdMbEncode s
  · exact completesWith_execCmdMbArm s
  · exact completesWith_emit .none rfl

theorem completesWith_execCommand (v : Half) (s : State) : CompletesWith .none s (execCommand v s) := by
  rw [execCommand_eq]
  cases hv : commandOf v with
  | none => exact completesWith_refuse s
  | some i => exact completesWith_command (commandOf_mem hv) s

/-- R201, R204: a host write outputs `none`, accepted or refused. -/
theorem completesWith_execWr (r : RegNum) (v : Half) (s : State) : CompletesWith .none s (execWr r v s) := by
  obtain h | ⟨-, h⟩ | ⟨-, h⟩ | ⟨-, h⟩ | ⟨-, h⟩ | ⟨-, h⟩ | ⟨-, -, h⟩ | ⟨-, -, h⟩ | ⟨-, -, n, -, h⟩ | ⟨-, i, -, h⟩ :=
    execWr_cases r v s <;> rw [h]
  · exact completesWith_refuse s
  · exact completesWith_execCommand v s
  all_goals exact completesWith_emit .none rfl

/-- R200: RESET outputs `none` and erases no output. -/
theorem completesWith_execReset (s : State) : CompletesWith .none s (execReset s) := completesWith_emit .none rfl

/-- R202: a host read outputs the value read. -/
theorem completesWith_execRd (r : RegNum) (s : State) : CompletesWith (.rdata (hostRead s r)) s (execRd r s) :=
  completesWith_emit _ rfl

end Sys2Proof.Machine
end

section
/-! PROOFS. Which events emit `FRAME` and `MBRESULT` (R13, R209, R233). -/

namespace Sys2Proof.Machine

/-- Settles O38: the lock, the refusals and the command dispatch all end in the output `none`, and a read ends in `RDATA`. -/
theorem onlyBytesEmitResults : Obligations.OnlyBytesEmitResults := by
  unfold Obligations.OnlyBytesEmitResults
  intro i s hi
  by_cases hrd : ∃ r, i = .rd r
  · obtain ⟨r, rfl⟩ := hrd
    obtain ⟨t, ht, hout⟩ := completesWith_execRd r s
    exact ⟨t, _, ht, hout, fun _ => ⟨_, rfl⟩, fun h => absurd ⟨r, rfl⟩ h⟩
  · have hnone : CompletesWith .none s (exec i s) := by
      obtain hi | ⟨r, v, rfl⟩ | hr := hi
      · obtain rfl | hi := List.mem_cons.mp hi
        · exact completesWith_execReset s
        · exact completesWith_command hi s
      · exact completesWith_execWr r v s
      · exact absurd hr hrd
    obtain ⟨t, ht, hout⟩ := hnone
    exact ⟨t, .none, ht, hout, fun h => absurd h hrd, fun _ => rfl⟩

end Sys2Proof.Machine
end

section
/-! SUPPORT. Everything an instruction and a step can do, where they answer a next state: the inversion lemmas the statements over
all instructions are proved from. -/

namespace Sys2Proof.Machine

/-- R200: what RESET makes of a state, its output aside. -/
def State.afterReset (s : State) : State := { State.reset with cfg := s.cfg, input := s.input, out := s.out }

/-- What an event that is no byte can do, where it answers a next state (R43, R200 to R208): one constructor an accepted event,
a command under its own row and as the `WR` to CMD that spells it (R84), and one for every refusal (R204). -/
inductive HostEffect (i : Instr) (s : State) : State → Prop
  | reset (hi : i = .reset) : HostEffect i s (s.afterReset.emit .none)
  | refused (hi : i = .cmdMbEncode ∨ i = .cmdMbArm ∨ ∃ r v, i = .wr r v) :
      HostEffect i s ({ s with cfgErr := true }.emit .none)
  | read (r : RegNum) (hi : i = .rd r) : HostEffect i s (s.emit (.rdata (hostRead s r)))
  | nop (hi : i = .cmdNop ∨ i = .wr 0x001 0x0000) : HostEffect i s (s.emit .none)
  | syncClr (hi : i = .cmdSyncClr ∨ i = .wr 0x001 0x0001) : HostEffect i s (s.cfdResync.emit .none)
  | frmAck (hi : i = .cmdFrmAck ∨ i = .wr 0x001 0x0002) :
      HostEffect i s ({ s with frmValid := false, frmOvr := false }.emit .none)
  | diagClr (hi : i = .cmdDiagClr ∨ i = .wr 0x001 0x0003) :
      HostEffect i s ({ s with discCnt := 0, discCause := .none }.emit .none)
  | flagClr (hi : i = .cmdFlagClr ∨ i = .wr 0x001 0x0004) :
      HostEffect i s ({ s with encErr := false, cfgErr := false }.emit .none)
  | encode (hi : i = .cmdMbEncode ∨ i = .wr 0x001 0x0010) (free : s.mbOut = false)
      (ok : encodable s.cfg s.mbFunc s.mbVal = true) :
      HostEffect i s ({ s with
        txbuf := s.txbuf.writeBytes 0 (s.requestHead ++ [lo8 (crc16 s.requestHead), hi8 (crc16 s.requestHead)])
        txLen := 8
        encErr := false }.emit .none)
  | encodeRejected (hi : i = .cmdMbEncode ∨ i = .wr 0x001 0x0010) (free : s.mbOut = false)
      (bad : encodable s.cfg s.mbFunc s.mbVal = false) : HostEffect i s ({ s with encErr := true }.emit .none)
  | arm (hi : i = .cmdMbArm ∨ i = .wr 0x001 0x0011) (free : s.mbOut = false) (legal : s.expectedLenLegal = true) :
      HostEffect i s ({ s with
        mbIdx := 0, mbCrc := CRC_INIT, mbDone := false, mbValid := false, mbFail := 0, mbOut := true }.emit .none)
  | abort (hi : i = .cmdMbAbort ∨ i = .wr 0x001 0x0012) : HostEffect i s ({ s with mbOut := false }.emit .none)
  | writeCtrl (r : RegNum) (v : Half) (hi : i = .wr r v) (hr : regAt r = some .ctrl) :
      HostEffect i s ({ s with rxsel := v.getLsbD 0 }.emit .none)
  | writeFunc (r : RegNum) (v : Half) (hi : i = .wr r v) (hr : regAt r = some .mbFunc) :
      HostEffect i s ({ s with mbFunc := lo8 v }.emit .none)
  | writeReg (r : RegNum) (v : Half) (hi : i = .wr r v) (hr : regAt r = some .mbReg) :
      HostEffect i s ({ s with mbReg := v }.emit .none)
  | writeVal (r : RegNum) (v : Half) (hi : i = .wr r v) (hr : regAt r = some .mbVal) :
      HostEffect i s ({ s with mbVal := v }.emit .none)
  | writeExpLen (r : RegNum) (v : Half) (hi : i = .wr r v) (hr : regAt r = some .mbExpLen) (free : s.mbOut = false) :
      HostEffect i s ({ s with mbExpLen := v.extractLsb' 0 9 }.emit .none)
  | writeVmode (r : RegNum) (v : Half) (hi : i = .wr r v) (hr : regAt r = some .mbVmode) (free : s.mbOut = false) :
      HostEffect i s ({ s with mbVmode := VMode.ofBit (v.getLsbD 0) }.emit .none)
  | writeTxLen (r : RegNum) (v : Half) (n : Fin 9) (hi : i = .wr r v) (hr : regAt r = some .txLen)
      (free : s.mbOut = false) (hn : n.val = v.toNat) : HostEffect i s ({ s with txLen := n }.emit .none)
  | writeTxbuf (r : RegNum) (v : Half) (j : Nat) (hi : i = .wr r v) (hr : regAt r = some (.txbuf j))
      (free : s.mbOut = false) : HostEffect i s ({ s with txbuf := s.txbuf.write j (lo8 v) }.emit .none)

/-- A refusal is the effect of a refusable event. -/
theorem hostEffect_refuse {i : Instr} {s t : State} (hi : i = .cmdMbEncode ∨ i = .cmdMbArm ∨ ∃ r v, i = .wr r v)
    (h : refuse s = .next t) : HostEffect i s t := by
  cases h
  exact .refused hi

/-- R43: a locked access refuses, or finds no exchange outstanding. -/
theorem hostEffect_unlessArmed {i : Instr} {s t : State} {k : State → Result}
    (hi : i = .cmdMbEncode ∨ i = .cmdMbArm ∨ ∃ r v, i = .wr r v) (h : unlessArmed s k = .next t)
    (hk : s.mbOut = false → k s = .next t → HostEffect i s t) : HostEffect i s t := by
  cases ho : s.mbOut with
  | true => exact hostEffect_refuse hi (by rwa [unlessArmed_out k ho] at h)
  | false => exact hk ho (by rwa [unlessArmed_free k ho] at h)

/-- R170 to R172. -/
theorem hostEffect_encode {i : Instr} {s t : State} (hi : i = .cmdMbEncode ∨ i = .wr 0x001 0x0010)
    (h : execCmdMbEncode s = .next t) : HostEffect i s t := by
  refine hostEffect_unlessArmed (hi.imp_right fun hi => .inr ⟨_, _, hi⟩) h fun free h => ?_
  cases he : encodable s.cfg s.mbFunc s.mbVal with
  | true => rw [if_pos he] at h; cases h; exact .encode hi free he
  | false => rw [if_neg (by simp [he])] at h; cases h; exact .encodeRejected hi free he

/-- R175, R176. -/
theorem hostEffect_arm {i : Instr} {s t : State} (hi : i = .cmdMbArm ∨ i = .wr 0x001 0x0011)
    (h : execCmdMbArm s = .next t) : HostEffect i s t := by
  have hr : i = .cmdMbEncode ∨ i = .cmdMbArm ∨ ∃ r v, i = .wr r v := .inr (hi.imp_right fun hi => ⟨_, _, hi⟩)
  refine hostEffect_unlessArmed hr h fun free h => ?_
  cases hl : s.expectedLenLegal with
  | true => rw [if_pos hl] at h; cases h; exact .arm hi free hl
  | false => rw [if_neg (by simp [hl])] at h; exact hostEffect_refuse hr h

/-- R84, R205: the effect of a command, however it is spelled. -/
theorem hostEffect_command {i c : Instr} {v : Half} {s t : State} (hv : commandOf v = some c)
    (hi : i = c ∨ i = .wr 0x001 v) (h : exec c s = .next t) : HostEffect i s t := by
  unfold commandOf at hv
  split_ifs at hv <;> subst v <;> cases hv
  · cases h; exact .nop hi
  · cases h; exact .syncClr hi
  · cases h; exact .frmAck hi
  · cases h; exact .diagClr hi
  · cases h; exact .flagClr hi
  · exact hostEffect_encode hi h
  · exact hostEffect_arm hi h
  · cases h; exact .abort hi

/-- R201, R204. -/
theorem hostEffect_write {r : RegNum} {v : Half} {s t : State} (h : execWr r v s = .next t) :
    HostEffect (.wr r v) s t := by
  have hw : Instr.wr r v = .cmdMbEncode ∨ Instr.wr r v = .cmdMbArm ∨ ∃ r' v', Instr.wr r v = .wr r' v' :=
    .inr (.inr ⟨r, v, rfl⟩)
  obtain e | ⟨hr, e⟩ | ⟨hr, e⟩ | ⟨hr, e⟩ | ⟨hr, e⟩ | ⟨hr, e⟩ | ⟨ho, hr, e⟩ | ⟨ho, hr, e⟩ | ⟨ho, hr, n, hn, e⟩ |
      ⟨ho, j, hr, e⟩ := execWr_cases r v s <;> rw [e] at h
  · exact hostEffect_refuse hw h
  · obtain ⟨rfl, -⟩ := regAt_some hr
    rw [execCommand_eq] at h
    cases hv : commandOf v with
    | none => rw [hv] at h; exact hostEffect_refuse hw h
    | some c => rw [hv] at h; exact hostEffect_command hv (.inr rfl) h
  · cases h; exact .writeCtrl r v rfl hr
  · cases h; exact .writeFunc r v rfl hr
  · cases h; exact .writeReg r v rfl hr
  · cases h; exact .writeVal r v rfl hr
  · cases h; exact .writeExpLen r v rfl hr ho
  · cases h; exact .writeVmode r v rfl hr ho
  · cases h; exact .writeTxLen r v n rfl hr ho hn
  · cases h; exact .writeTxbuf r v j rfl hr ho

/-- Bytes one at a time (R106): a single one is its `RX`. -/
theorem feedBytes_singleton (b : Byte) (s : State) : feedBytes [b] s = execRx b s := by
  rw [feedBytes_cons]
  cases execRx b s <;> rfl

/-- Everything an instruction can do, where it answers a next state: bytes arrive, or the host accesses the block. -/
theorem exec_effect {i : Instr} {s t : State} (h : exec i s = .next t) :
    (∃ bs, feedBytes bs s = .next t) ∨ HostEffect i s t := by
  cases i with
  | reset => cases h; exact .inr (.reset rfl)
  | rx b => exact .inl ⟨[b], by rwa [feedBytes_singleton]⟩
  | wr r v => exact .inr (hostEffect_write h)
  | rd r => cases h; exact .inr (.read r rfl)
  | cmdNop => exact .inr (hostEffect_command (v := 0x0000) rfl (.inl rfl) h)
  | cmdSyncClr => exact .inr (hostEffect_command (v := 0x0001) rfl (.inl rfl) h)
  | cmdFrmAck => exact .inr (hostEffect_command (v := 0x0002) rfl (.inl rfl) h)
  | cmdDiagClr => exact .inr (hostEffect_command (v := 0x0003) rfl (.inl rfl) h)
  | cmdFlagClr => exact .inr (hostEffect_command (v := 0x0004) rfl (.inl rfl) h)
  | cmdMbEncode => exact .inr (hostEffect_command (v := 0x0010) rfl (.inl rfl) h)
  | cmdMbArm => exact .inr (hostEffect_command (v := 0x0011) rfl (.inl rfl) h)
  | cmdMbAbort => exact .inr (hostEffect_command (v := 0x0012) rfl (.inl rfl) h)
  | tframe20 p c => exact .inl ⟨_, h⟩
  | tframe28 p c => exact .inl ⟨_, h⟩
  | mbreqReadA reg n c => exact .inl ⟨_, h⟩
  | mbreqReadB reg n c => exact .inl ⟨_, h⟩
  | mbreqWrite reg v c => exact .inl ⟨_, h⟩

/-- Everything a step can do, where it answers a next state (R70, log 8): idle, or execute the next item. -/
theorem step_cases {s t : State} (h : step s = .next t) :
    t = s ∨ ∃ ts i, exec i { s with input := ts } = .next t := by
  cases hin : s.input with
  | nil => simp only [step, fetch_nil hin] at h; cases h; exact .inl rfl
  | cons tok ts =>
    simp only [step, fetch_cons hin] at h
    split at h
    · exact .inr ⟨ts, _, h⟩
    · cases h

end Sys2Proof.Machine
end

section
/-! PROOFS. The invariant (R44, R45, R33 to R36, R39): it holds after reset, and bytes, host events and steps keep it. -/

namespace Sys2Proof.Machine

/-- Settles O41: R46's values, clause by clause. -/
theorem invariantAtReset : Obligations.InvariantAtReset where
  position := rfl
  sum := rfl
  checksumHigh := fun _ => rfl
  frmLen := .inl rfl
  frmTail := fun _ _ => rfl
  frmValid := nofun
  frmOvr := nofun
  doneNotOut := nofun
  valid := rfl
  failOnlyDone := fun _ => rfl
  armed := nofun
  runningCrc := nofun
  echoCrc := nofun
  mbIdx := by decide
  discard := by decide
  txbufWf := rfl
  frmDataWf := rfl
  rxbufWf := rfl
  payWf := rfl

/-- R200: after RESET, whatever the parameters, the run and the observation. -/
theorem inv_afterReset (s : State) : s.afterReset.Inv := { invariantAtReset with }

section
variable {s : State}

/-- The outputs are no part of the invariant. -/
theorem State.Inv.emit (h : s.Inv) (o : Output) : (s.emit o).Inv := { h with }

/-- R141: the seek state. -/
theorem State.Inv.cfdResync (h : s.Inv) : s.cfdResync.Inv :=
  { h with position := rfl, sum := rfl, checksumHigh := fun _ => rfl }

/-- R252. -/
theorem State.Inv.raiseDiscard (h : s.Inv) (c : DiscCause) (hc : c ≠ .none) : (s.raiseDiscard c).Inv :=
  { h.cfdResync with discard := iff_of_false (satInc_ne_zero _) hc }

/-- R29: a byte that joins the summed bytes joins the sum. -/
theorem State.Inv.sum_append (h : s.Inv) {t : State} {b : Byte} (ht : t.acceptedBytes = s.acceptedBytes ++ [b])
    (hs : t.cfdSum = sumStep s.cfdSum b) : t.cfdSum = sum16 t.acceptedBytes := by
  rw [ht, hs, sum16_concat, h.sum]

/-- R44: outside S6 the high checksum byte is 0. -/
theorem State.Inv.cfdCkh_eq_zero (h : s.Inv) {st : CfdSt} (hst : s.cfdSt = st) (hne : st ≠ .readChecksumLo) :
    s.cfdCkh = 0 :=
  h.checksumHigh (hst ▸ hne)

/-- R44: the table's row for the state. -/
theorem State.Inv.row (h : s.Inv) {st : CfdSt} (hst : s.cfdSt = st) :
    positionOk st s.cfdIdx.toNat s.cfdLen.toNat = true :=
  hst ▸ h.position

theorem inv_rxSeekHeader0 (b : Byte) (h : s.Inv) (hst : s.cfdSt = .seekHeader0) : (rxSeekHeader0 b s).Inv := by
  have hlen : s.cfdLen.toNat = 0 := by simpa using (Bool.and_eq_true_iff.mp (h.row hst)).2
  unfold rxSeekHeader0
  split
  · exact { h with
      position := by simp [State.cfdPositionOk, positionOk, hlen]
      sum := show (0x0042 : Half) = sum16 [HDR0] by decide
      checksumHigh := fun _ => h.cfdCkh_eq_zero hst nofun }
  · exact h.emit _

theorem inv_rxSeekHeader1 (b : Byte) (h : s.Inv) (hst : s.cfdSt = .seekHeader1) : (rxSeekHeader1 b s).Inv := by
  have hlen : s.cfdLen.toNat = 0 := by simpa using (Bool.and_eq_true_iff.mp (h.row hst)).2
  unfold rxSeekHeader1
  split
  · next hb =>
    exact { h with
      position := by simp [State.cfdPositionOk, positionOk, hlen]
      sum := h.sum_append (b := b) (by simp [State.acceptedBytes, hst, hb]) rfl
      checksumHigh := fun _ => h.cfdCkh_eq_zero hst nofun }
  · exact (h.raiseDiscard .badHeader1 nofun).emit _

theorem inv_rxReadLenHi (b : Byte) (h : s.Inv) (hst : s.cfdSt = .readLenHi) : (rxReadLenHi b s).Inv :=
  { h with
    position := by simp [rxReadLenHi, State.cfdPositionOk, positionOk, cat16_toNat]
    sum := h.sum_append (b := b) (by simp [rxReadLenHi, State.acceptedBytes, hst]) rfl
    checksumHigh := fun _ => h.cfdCkh_eq_zero hst nofun }

theorem inv_rxReadLenLo (b : Byte) (h : s.Inv) (hst : s.cfdSt = .readLenLo) : (rxReadLenLo b s).Inv := by
  dsimp only [rxReadLenLo]
  split
  · next hlen =>
    exact { h with
      position := by rcases hlen with hlen | hlen <;> simp [State.cfdPositionOk, positionOk, hlen]
      sum := h.sum_append (b := b) (by simp [State.acceptedBytes, hst, Memory.readBytes]) rfl
      checksumHigh := fun _ => h.cfdCkh_eq_zero hst nofun }
  · exact (h.raiseDiscard .badLength nofun).emit _

/-- R44, from S4 on: the length field is one of the two admissible values. -/
theorem lenField_of_row {n : Nat} (h : (n == LEN_A || n == LEN_B) = true) : n = 20 ∨ n = 28 := by
  simpa using h

/-- R28: counting a byte of a frame does not wrap. -/
theorem cfdIdx_succ_toNat (h : s.cfdIdx.toNat < 31) : (s.cfdIdx + 1).toNat = s.cfdIdx.toNat + 1 :=
  BitVec.toNat_add_of_lt (Nat.succ_lt_succ h)

/-- R147: the byte taken in S4 is the next of the summed bytes, the last one included. -/
theorem acceptedBytes_rxReadPayload (b : Byte) (hst : s.cfdSt = .readPayload) (hlo : 4 ≤ s.cfdIdx.toNat)
    (hidx : (s.cfdIdx + 1).toNat = s.cfdIdx.toNat + 1) :
    (rxReadPayload b s).acceptedBytes = s.acceptedBytes ++ [b] := by
  have hbytes : (s.pay.write (s.cfdIdx.toNat - 4) b).readBytes (s.cfdIdx.toNat - 3) =
      s.pay.readBytes (s.cfdIdx.toNat - 4) ++ [b] := by
    rw [show s.cfdIdx.toNat - 3 = s.cfdIdx.toNat - 4 + 1 by omega, Memory.readBytes_succ,
      Memory.readBytes_write_ge _ _ le_rfl, Memory.read_write, if_pos rfl]
  rw [State.acceptedBytes.eq_def s, hst, List.append_assoc, ← hbytes]
  by_cases hlast : s.cfdIdx.toNat + 1 = s.cfdLen.toNat + 2
  · have hst' : (rxReadPayload b s).cfdSt = .readChecksumHi := if_pos hlast
    rw [State.acceptedBytes, hst', show s.cfdIdx.toNat - 3 = s.cfdLen.toNat - 2 by omega]
    rfl
  · have hst' : (rxReadPayload b s).cfdSt = .readPayload := if_neg hlast
    rw [State.acceptedBytes, hst', show s.cfdIdx.toNat - 3 = (s.cfdIdx + 1).toNat - 4 by omega]
    rfl

theorem inv_rxReadPayload (b : Byte) (h : s.Inv) (hst : s.cfdSt = .readPayload) : (rxReadPayload b s).Inv := by
  have hrow := h.row hst
  simp only [positionOk, Bool.and_eq_true, decide_eq_true_eq] at hrow
  obtain ⟨hlen, hlo, hhi⟩ := hrow
  have hcase := lenField_of_row hlen
  have hidx := cfdIdx_succ_toNat (s := s) (by omega)
  exact { h with
    position := by
      show positionOk (if s.cfdIdx.toNat + 1 = s.cfdLen.toNat + 2 then _ else _) (s.cfdIdx + 1).toNat s.cfdLen.toNat = true
      rw [hidx]
      split
      · next hlast =>
        simp only [positionOk, hlen, hlast, beq_self_eq_true, Bool.and_self]
      · simp only [positionOk, hlen, Bool.true_and, Bool.and_eq_true, decide_eq_true_eq]
        omega
    sum := h.sum_append (acceptedBytes_rxReadPayload b hst hlo hidx) rfl
    checksumHigh := fun _ => h.cfdCkh_eq_zero hst nofun
    payWf := Memory.wf_write b h.payWf (by simp only [PAY_CAP]; omega) }

theorem inv_rxReadChecksumHi (b : Byte) (h : s.Inv) (hst : s.cfdSt = .readChecksumHi) : (rxReadChecksumHi b s).Inv := by
  have hrow := h.row hst
  simp only [positionOk, Bool.and_eq_true, beq_iff_eq] at hrow
  obtain ⟨hlen, hidx⟩ := hrow
  have hcase := lenField_of_row hlen
  have hsucc := cfdIdx_succ_toNat (s := s) (by omega)
  exact { h with
    position := by
      show positionOk .readChecksumLo (s.cfdIdx + 1).toNat s.cfdLen.toNat = true
      simp only [positionOk, hlen, hsucc, hidx, beq_self_eq_true, Bool.and_self]
    sum := h.sum.trans (by simp [rxReadChecksumHi, State.acceptedBytes, hst])
    checksumHigh := fun hne => absurd rfl hne }

/-- R149: the bytes the frame latches, and 0 behind them. -/
theorem latchedBytes_getD (s : State) (i : Nat) :
    (latchedBytes s).getD i 0 = if i < PAY_CAP ∧ i < s.cfdLen.toNat - 2 then s.pay.read i else 0 := by
  by_cases hi : i < PAY_CAP <;> simp [latchedBytes, hi]

theorem length_latchedBytes (s : State) : (latchedBytes s).length = PAY_CAP := by simp [latchedBytes]

/-- R149, R33: emission latches a frame of one of the two lengths, 0 behind its payload. -/
theorem inv_emitFrame (h : s.Inv) (hlen : s.cfdLen.toNat = 20 ∨ s.cfdLen.toNat = 28) : (emitFrame s).Inv :=
  { h.cfdResync with
    frmLen := .inr (hlen.imp (fun h => BitVec.eq_of_toNat_eq h) fun h => BitVec.eq_of_toNat_eq h)
    frmTail := fun i (hi : s.cfdLen.toNat - 2 ≤ i) => by
      show (s.frmData.writeBytes 0 (latchedBytes s)).read i = 0
      rw [Memory.read_writeBytes, length_latchedBytes]
      split
      · rw [Nat.sub_zero, latchedBytes_getD, if_neg (by omega)]
      · exact Memory.read_ge_cap h.frmDataWf (by omega)
    frmValid := fun _ h0 => by
      have h0 : s.cfdLen.toNat = 0 := congrArg BitVec.toNat h0
      omega
    frmOvr := fun _ => rfl
    frmDataWf := Memory.wf_writeBytes _ _ _ h.frmDataWf (by simp [length_latchedBytes]) }

theorem inv_rxReadChecksumLo (b : Byte) (h : s.Inv) (hst : s.cfdSt = .readChecksumLo) : (rxReadChecksumLo b s).Inv := by
  unfold rxReadChecksumLo
  split
  · exact inv_emitFrame h (lenField_of_row (Bool.and_eq_true_iff.mp (h.row hst)).1)
  · exact (h.raiseDiscard .badChecksum nofun).emit _

/-- R142, R44: a byte to CFD keeps the invariant. -/
theorem inv_cfdByte (b : Byte) (h : s.Inv) : (cfdByte b s).Inv := by
  unfold cfdByte
  split
  · exact inv_rxSeekHeader0 b h ‹_›
  · exact inv_rxSeekHeader1 b h ‹_›
  · exact inv_rxReadLenHi b h ‹_›
  · exact inv_rxReadLenLo b h ‹_›
  · exact inv_rxReadPayload b h ‹_›
  · exact inv_rxReadChecksumHi b h ‹_›
  · exact inv_rxReadChecksumLo b h ‹_›

/-- R39: counting a byte below the expected length does not wrap. -/
theorem collect_mbIdx_toNat {n : Nat} (b : Byte) (hn : n ≤ 260) (hlt : s.mbIdx.toNat < n) :
    (s.collect b).mbIdx.toNat = s.mbIdx.toNat + 1 :=
  BitVec.toNat_add_of_lt (show s.mbIdx.toNat + 1 < 512 by omega)

/-- R45 (b), R178, R179: the running CRC after one more byte. -/
theorem State.Inv.runningCrc_collect (h : s.Inv) (b : Byte) (ho : s.mbOut = true) (hm : s.mbVmode = .crc) :
    (s.collect b).mbCrc =
      crc16 ((s.collect b).rxbuf.readBytes (min (s.mbIdx.toNat + 1) (s.expectedLen - 2))) := by
  have hrun := h.runningCrc ho hm
  rw [State.collect_mbCrc, State.collect_rxbuf]
  by_cases hf : s.mbIdx.toNat < s.expectedLen - 2
  · have hfold : s.foldsCrc = true := by simp [State.foldsCrc, hm, hf]
    rw [if_pos hfold, hrun, Nat.min_eq_left hf, Nat.min_eq_left (Nat.le_of_lt hf), Memory.readBytes_succ,
      Memory.readBytes_write_ge _ _ le_rfl, Memory.read_write, if_pos rfl, crc16_concat]
  · have hfold : s.foldsCrc = false := by simp [State.foldsCrc, hf]
    have hge : s.expectedLen - 2 ≤ s.mbIdx.toNat := by omega
    rw [hfold, if_neg nofun, hrun, Nat.min_eq_right hge, Nat.min_eq_right (by omega), Memory.readBytes_write_ge _ _ hge]

/-- R178: a byte that does not complete the exchange. -/
theorem inv_collect (b : Byte) (h : s.Inv) (ho : s.mbOut = true) (hlt : s.mbIdx.toNat + 1 < s.expectedLen) :
    (s.collect b).Inv := by
  obtain ⟨hlegal, -⟩ := h.armed ho
  have hn := expectedLen_le hlegal
  have hidx : (s.collect b).mbIdx.toNat = s.mbIdx.toNat + 1 := collect_mbIdx_toNat b hn (by omega)
  exact { h with
    armed := fun _ => ⟨hlegal, by rw [hidx]; exact hlt⟩
    runningCrc := fun _ hm => by rw [hidx]; exact h.runningCrc_collect b ho hm
    echoCrc := fun _ hm => by
      have hm : s.mbVmode = .echo := hm
      have hfold : s.foldsCrc = false := by simp [State.foldsCrc, hm]
      rw [State.collect_mbCrc, hfold, if_neg nofun, h.echoCrc ho hm]
    mbIdx := by rw [hidx]; simp only [MB_CAP]; omega
    rxbufWf := Memory.wf_write b h.rxbufWf (by simp only [MB_CAP]; omega) }

/-- R178, R182: the byte that completes the exchange. -/
theorem inv_complete (b : Byte) (h : s.Inv) (ho : s.mbOut = true) : (s.collect b).complete.Inv := by
  obtain ⟨hlegal, hlt⟩ := h.armed ho
  have hn := expectedLen_le hlegal
  have hidx : (s.collect b).complete.mbIdx.toNat = s.mbIdx.toNat + 1 := collect_mbIdx_toNat b hn hlt
  exact { h with
    doneNotOut := fun _ => rfl
    valid := rfl
    failOnlyDone := nofun
    armed := nofun
    runningCrc := nofun
    echoCrc := nofun
    mbIdx := by rw [hidx]; simp only [MB_CAP]; omega
    rxbufWf := Memory.wf_write b h.rxbufWf (by simp only [MB_CAP]; omega) }

/-- R24: a byte keeps the invariant, whichever unit takes it. -/
theorem inv_execRx {b : Byte} {t : State} (h : s.Inv) (ht : execRx b s = .next t) : t.Inv := by
  obtain ⟨-, -, rfl⟩ | ⟨-, -, rfl⟩ | ⟨-, ho, -, hne, rfl⟩ | ⟨-, ho, -, -, rfl⟩ := execRx_cases ht
  · exact inv_cfdByte b h
  · exact h.emit _
  · have := (h.armed ho).2
    exact (inv_collect b h ho (by omega)).emit _
  · exact inv_complete b h ho

/-- R43, R45 (a): while no exchange is outstanding, the invariant asks nothing of the request slot but TXBUF's form. -/
theorem State.Inv.setSlot (h : s.Inv) (free : s.mbOut = false) (expLen : BitVec 9) (vmode : VMode) (txLen : Fin 9)
    {txbuf : Memory} (hwf : txbuf.wf TX_CAP = true) :
    { s with mbExpLen := expLen, mbVmode := vmode, txLen := txLen, txbuf := txbuf }.Inv :=
  { h with
    armed := fun ho => absurd (free.symm.trans ho) nofun
    runningCrc := fun ho => absurd (free.symm.trans ho) nofun
    echoCrc := fun ho => absurd (free.symm.trans ho) nofun
    txbufWf := hwf }

/-- R176: arming starts an exchange at its first byte. -/
theorem inv_arm (h : s.Inv) (legal : s.expectedLenLegal = true) :
    { s with mbIdx := 0, mbCrc := CRC_INIT, mbDone := false, mbValid := false, mbFail := 0, mbOut := true }.Inv :=
  { h with
    doneNotOut := nofun
    valid := rfl
    failOnlyDone := fun _ => rfl
    armed := fun _ => ⟨legal, (expectedLen_pos legal).1⟩
    runningCrc := fun _ _ => by simp [Memory.readBytes, crc16]
    echoCrc := fun _ _ => rfl
    mbIdx := Nat.zero_le _ }

/-- R184. -/
theorem inv_abort (h : s.Inv) : { s with mbOut := false }.Inv :=
  { h with doneNotOut := fun _ => rfl, armed := nofun, runningCrc := nofun, echoCrc := nofun }

/-- An event that is no byte keeps the invariant. -/
theorem inv_hostEffect {i : Instr} {t : State} (h : s.Inv) (ht : HostEffect i s t) : t.Inv := by
  cases ht with
  | reset => exact (inv_afterReset s).emit _
  | refused | read | nop | flagClr | encodeRejected | writeCtrl | writeFunc | writeReg | writeVal => exact { h with }
  | syncClr => exact h.cfdResync.emit _
  | frmAck => exact { h with frmValid := nofun, frmOvr := nofun }
  | diagClr => exact { h with discard := iff_of_true rfl rfl }
  | encode _ free =>
    have hwf := Memory.wf_writeBytes s.txbuf 0
      (s.requestHead ++ [lo8 (crc16 s.requestHead), hi8 (crc16 s.requestHead)]) h.txbufWf le_rfl
    exact { h.setSlot free s.mbExpLen s.mbVmode 8 hwf with }
  | arm _ _ legal => exact (inv_arm h legal).emit _
  | abort => exact (inv_abort h).emit _
  | writeExpLen _ _ _ _ free => exact { h.setSlot free _ s.mbVmode s.txLen h.txbufWf with }
  | writeVmode _ _ _ _ free => exact { h.setSlot free s.mbExpLen _ s.txLen h.txbufWf with }
  | writeTxLen _ _ n _ _ free => exact { h.setSlot free s.mbExpLen s.mbVmode n h.txbufWf with }
  | writeTxbuf _ v j _ hr free =>
    have hj : j < TX_CAP := of_decide_eq_true (regAt_some hr).2
    exact { h.setSlot free s.mbExpLen s.mbVmode s.txLen (Memory.wf_write (lo8 v) h.txbufWf hj) with }

/-- Every instruction keeps the invariant. -/
theorem inv_exec {i : Instr} {t : State} (h : s.Inv) (ht : exec i s = .next t) : t.Inv := by
  obtain ⟨bs, hbs⟩ | he := exec_effect ht
  · exact feedBytes_keeps State.Inv (fun _ _ _ => inv_execRx) bs h hbs
  · exact inv_hostEffect h he

end

/-- Settles O42: the items of the run are no part of the invariant, and every instruction keeps it. -/
theorem stepKeepsInvariant : Obligations.StepKeepsInvariant := by
  unfold Obligations.StepKeepsInvariant
  intro s t h ht
  obtain rfl | ⟨ts, i, hi⟩ := step_cases ht
  · exact h
  · have hrun : { s with input := ts }.Inv := { h with }
    exact inv_exec hrun hi

end Sys2Proof.Machine
end

section
/-! PROOFS. What an event leaves unchanged: the unit not selected (R24), the locked request slot (R43), the judged exchange (R182),
the latched frame (R33), CFG_ERR (R34); the reset values (R46) and the states without behaviour (U14). -/

namespace Sys2Proof.Machine

/-- R24: `t` is `s` but for what CFD owns (R27 to R33, R36, and its flags of R34) and the outputs. -/
def OnlyCfdChanged (s t : State) : Prop :=
  t = { s with
    out := t.out, frmValid := t.frmValid, frmOvr := t.frmOvr, cfdSt := t.cfdSt, cfdIdx := t.cfdIdx, cfdSum := t.cfdSum
    cfdLen := t.cfdLen, cfdCkh := t.cfdCkh, discCnt := t.discCnt, discCause := t.discCause, frmLen := t.frmLen
    frmData := t.frmData, pay := t.pay }

/-- R24: `t` is `s` but for what the collector writes (R35, R39, R42, and its flags of R34) and the outputs. -/
def OnlyCollectorChanged (s t : State) : Prop :=
  t = { s with
    out := t.out, mbOut := t.mbOut, mbDone := t.mbDone, mbValid := t.mbValid, mbFail := t.mbFail, mbIdx := t.mbIdx
    mbCrc := t.mbCrc, rxbuf := t.rxbuf }

/-- R142 to R149. -/
theorem onlyCfdChanged_cfdByte (b : Byte) (s : State) : OnlyCfdChanged s (cfdByte b s) := by
  unfold cfdByte
  split
  · unfold rxSeekHeader0; split <;> rfl
  · unfold rxSeekHeader1; split <;> rfl
  · rfl
  · dsimp only [rxReadLenLo]; split <;> rfl
  · rfl
  · rfl
  · unfold rxReadChecksumLo; split <;> rfl

/-- R24: a byte changes only what the unit that RXSEL selects owns. -/
theorem onlyOneUnitChanged {b : Byte} {s t : State} (h : execRx b s = .next t) :
    (s.rxsel = false ∧ OnlyCfdChanged s t) ∨ (s.rxsel = true ∧ OnlyCollectorChanged s t) := by
  obtain ⟨hsel, -, rfl⟩ | ⟨hsel, -, rfl⟩ | ⟨hsel, -, -, -, rfl⟩ | ⟨hsel, -, -, -, rfl⟩ := execRx_cases h
  · exact .inl ⟨hsel, onlyCfdChanged_cfdByte b s⟩
  · exact .inr ⟨hsel, rfl⟩
  · exact .inr ⟨hsel, rfl⟩
  · exact .inr ⟨hsel, rfl⟩

/-- What CFD owns stands in STATUS and in its own numbers of the register map (R40). -/
theorem OnlyCfdChanged.regs {s t : State} (h : OnlyCfdChanged s t) :
    ∀ r, r ≠ 0x002 → r ∉ positionRegs ++ discardRegs ++ 0x00B :: frmDataRegs → hostRead t r = hostRead s r :=
  regs_same_of fun g hin hstatus hrs => by
    cases g with
    | status => exact absurd rfl hstatus
    | cfdSt | cfdIdx | cfdSum | cfdLen | cfdCkh | discCnt | discCause | frmLen => exact absurd (by decide) hrs
    | frmData i =>
      have := mem_frmDataRegs (of_decide_eq_true hin)
      exact absurd (List.mem_append_right _ (List.mem_cons_of_mem _ this)) hrs
    | _ => rw [h]; rfl

/-- What the collector writes stands in STATUS and in its own numbers of the register map (R40). -/
theorem OnlyCollectorChanged.regs {s t : State} (h : OnlyCollectorChanged s t) :
    ∀ r, r ≠ 0x002 → r ∉ collectorRegs → hostRead t r = hostRead s r :=
  regs_same_of fun g hin hstatus hrs => by
    cases g with
    | status => exact absurd rfl hstatus
    | mbFail | mbIdx | mbCrc => exact absurd (List.mem_append_left _ (by decide)) hrs
    | rxbuf i => exact absurd (List.mem_append_right _ (mem_rxbufRegs (of_decide_eq_true hin))) hrs
    | _ => rw [h]; rfl

/-- Settles O20: the byte changes only what its unit owns, and the register map keeps the two apart. -/
theorem oneUnitReceivesAByte : Obligations.OneUnitReceivesAByte := by
  unfold Obligations.OneUnitReceivesAByte
  intro s t b ht
  obtain ⟨hsel, h⟩ | ⟨hsel, h⟩ := onlyOneUnitChanged ht
  · exact ⟨fun _ => ⟨h.regs, by rw [h]; rfl⟩, fun h1 => absurd (hsel.symm.trans h1) nofun⟩
  · exact ⟨fun h0 => absurd (hsel.symm.trans h0) nofun, fun _ => ⟨h.regs, fun i => by rw [h], by rw [h]; rfl⟩⟩

/-- R41, R38, R43: the request slot, TXLEN, MB_EXP_LEN, MB_VMODE and TXBUF, is as it was. -/
def SameSlot (s t : State) : Prop :=
  t.txLen = s.txLen ∧ t.mbExpLen = s.mbExpLen ∧ t.mbVmode = s.mbVmode ∧ t.txbuf = s.txbuf

theorem SameSlot.bytes {s t : State} (h : SameSlot s t) :
    t.txLen = s.txLen ∧ t.mbExpLen = s.mbExpLen ∧ t.mbVmode = s.mbVmode ∧ ∀ j, t.txbuf.read j = s.txbuf.read j := by
  obtain ⟨hlen, hexp, hmode, hbuf⟩ := h
  exact ⟨hlen, hexp, hmode, fun j => by rw [hbuf]⟩

/-- A byte leaves the request slot as it was, in either unit. -/
theorem sameSlot_execRx {b : Byte} {s t : State} (h : execRx b s = .next t) : SameSlot s t := by
  obtain ⟨-, h⟩ | ⟨-, h⟩ := onlyOneUnitChanged h <;> (rw [h]; exact ⟨rfl, rfl, rfl, rfl⟩)

theorem sameSlot_feedBytes {bs : List Byte} {s t : State} (h : feedBytes bs s = .next t) : SameSlot s t := by
  refine feedBytes_keeps (SameSlot s) (fun b u v hu hv => ?_) bs ⟨rfl, rfl, rfl, rfl⟩ h
  obtain ⟨hlen, hexp, hmode, hbuf⟩ := hu
  obtain ⟨hlen', hexp', hmode', hbuf'⟩ := sameSlot_execRx hv
  exact ⟨hlen'.trans hlen, hexp'.trans hexp, hmode'.trans hmode, hbuf'.trans hbuf⟩

/-- R43: every event that writes the request slot finds no exchange outstanding, RESET aside, which leaves none. -/
theorem HostEffect.sameSlot {i : Instr} {s t : State} (h : HostEffect i s t) (hs : s.mbOut = true)
    (ht : t.mbOut = true) : SameSlot s t := by
  cases h with
  | reset => exact absurd ht nofun
  | encode _ free | encodeRejected _ free | arm _ free | writeExpLen _ _ _ _ free | writeVmode _ _ _ _ free
  | writeTxLen _ _ _ _ _ free | writeTxbuf _ _ _ _ _ free => exact absurd (free.symm.trans hs) nofun
  | _ => exact ⟨rfl, rfl, rfl, rfl⟩

/-- Settles O35: bytes leave the slot alone, and host events are held off by the lock. -/
theorem requestSlotLockedWhileOutstanding : Obligations.RequestSlotLockedWhileOutstanding := by
  unfold Obligations.RequestSlotLockedWhileOutstanding
  intro i s t hs ht hout
  obtain ⟨bs, hbs⟩ | he := exec_effect ht
  · exact (sameSlot_feedBytes hbs).bytes
  · exact (he.sameSlot hs hout).bytes

/-- R204: a refusal changes CFG_ERR and nothing else. -/
theorem refused_refuse (s : State) : Refused s (refuse s) := by
  refine ⟨_, rfl, ⟨?_, rfl, rfl, rfl, rfl⟩, fun _ => rfl⟩
  refine regs_same_of fun g _ hstatus _ => ?_
  cases g with
  | status => exact absurd rfl hstatus
  | _ => rfl

theorem refused_of_eq {s : State} {r : Result} (h : r = refuse s) : Refused s r := h ▸ refused_refuse s

theorem execCmdMbEncode_locked {s : State} (hs : s.mbOut = true) : execCmdMbEncode s = refuse s := by
  rw [execCmdMbEncode, unlessArmed_out _ hs]

theorem execCmdMbArm_locked {s : State} (hs : s.mbOut = true) : execCmdMbArm s = refuse s := by
  rw [execCmdMbArm, unlessArmed_out _ hs]

/-- R43: the registers of the request slot. -/
def HostReg.inSlot : HostReg → Bool
  | .mbExpLen | .mbVmode | .txLen | .txbuf _ => true
  | _ => false

theorem execWr_locked {r : RegNum} {g : HostReg} {s : State} (v : Half) (hr : regAt r = some g) (hg : g.inSlot = true)
    (hs : s.mbOut = true) : execWr r v s = refuse s := by
  cases g with
  | mbExpLen | mbVmode | txLen | txbuf => simp only [execWr, hr, unlessArmed_out _ hs]
  | _ => cases hg

/-- R40: the numbers of the request slot. -/
theorem regAt_slot {r : RegNum} (h : r ∈ [0x013, 0x014, 0x017] ++ txbufRegs) : ∃ g, regAt r = some g ∧ g.inSlot = true := by
  simp only [List.mem_append, List.mem_cons, List.not_mem_nil, or_false, txbufRegs, List.mem_map, List.mem_range] at h
  obtain (rfl | rfl | rfl) | ⟨i, hi, rfl⟩ := h
  · exact ⟨.mbExpLen, rfl, rfl⟩
  · exact ⟨.mbVmode, rfl, rfl⟩
  · exact ⟨.txLen, rfl, rfl⟩
  · exact ⟨.txbuf i, regAt_number (g := .txbuf i) (decide_eq_true hi), rfl⟩

/-- Settles O36: each locked access is `refuse`, the abort and the bytes are not locked. -/
theorem lockedAccessesRefused : Obligations.LockedAccessesRefused := by
  unfold Obligations.LockedAccessesRefused
  intro s v hs
  refine ⟨fun r hr => ?_, refused_of_eq (execCmdMbEncode_locked hs), refused_of_eq (execCmdMbArm_locked hs),
    ⟨_, rfl, rfl, rfl⟩, fun b t ht => (sameSlot_execRx ht).bytes⟩
  obtain ⟨g, hr, hg⟩ := regAt_slot hr
  exact refused_of_eq (execWr_locked v hr hg hs)

/-- R182: the judged exchange, its verdict, count, CRC and bytes, is as it was. -/
def SameJudgement (s t : State) : Prop :=
  t.mbDone = s.mbDone ∧ t.mbIdx = s.mbIdx ∧ t.mbFail = s.mbFail ∧ t.mbValid = s.mbValid ∧ t.mbCrc = s.mbCrc ∧
    t.rxbuf = s.rxbuf

theorem SameJudgement.refl (s : State) : SameJudgement s s := ⟨rfl, rfl, rfl, rfl, rfl, rfl⟩

/-- R45 (d), R178: a byte after the verdict goes to CFD or is dropped (or faults, log 5). -/
theorem sameJudgement_execRx {b : Byte} {s t : State} (hs : s.mbDone = true) (h : execRx b s = .next t) :
    SameJudgement s t := by
  have notOk : s.collectorOk ≠ true := by simp [State.collectorOk, hs]
  obtain ⟨-, -, rfl⟩ | ⟨-, -, rfl⟩ | ⟨-, -, ok, -⟩ | ⟨-, -, ok, -⟩ := execRx_cases h
  · rw [onlyCfdChanged_cfdByte b s]
    exact .refl s
  · exact .refl s
  · exact absurd ok notOk
  · exact absurd ok notOk

theorem sameJudgement_feedBytes {bs : List Byte} {s t : State} (hs : s.mbDone = true) (h : feedBytes bs s = .next t) :
    SameJudgement s t := by
  refine feedBytes_keeps (SameJudgement s) (fun b u v hu hv => ?_) bs (.refl s) h
  obtain ⟨hdone, hidx, hfail, hvalid, hcrc, hbuf⟩ := hu
  obtain ⟨hdone', hidx', hfail', hvalid', hcrc', hbuf'⟩ := sameJudgement_execRx (hdone.trans hs) hv
  exact ⟨hdone'.trans hdone, hidx'.trans hidx, hfail'.trans hfail, hvalid'.trans hvalid, hcrc'.trans hcrc,
    hbuf'.trans hbuf⟩

/-- R182: of the host's events, only RESET and an accepted MB_ARM touch the judgement, and both clear MB_DONE. -/
theorem HostEffect.sameJudgement {i : Instr} {s t : State} (h : HostEffect i s t) :
    SameJudgement s t ∨ ((i = .reset ∨ i = .cmdMbArm ∨ i = .wr 0x001 0x0011) ∧ t.mbDone = false) := by
  cases h with
  | reset hi => exact .inr ⟨.inl hi, rfl⟩
  | arm hi => exact .inr ⟨.inr hi, rfl⟩
  | _ => exact .inl (.refl s)

/-- The same over all instructions. -/
theorem exec_sameJudgement {i : Instr} {s t : State} (hs : s.mbDone = true) (h : exec i s = .next t) :
    SameJudgement s t ∨ ((i = .reset ∨ i = .cmdMbArm ∨ i = .wr 0x001 0x0011) ∧ t.mbDone = false) := by
  obtain ⟨bs, hbs⟩ | he := exec_effect h
  · exact .inl (sameJudgement_feedBytes hs hbs)
  · exact he.sameJudgement

/-- Settles O37: what touches the judgement clears MB_DONE, and is RESET or an accepted MB_ARM. -/
theorem judgedExchangeIsKept : Obligations.JudgedExchangeIsKept := by
  unfold Obligations.JudgedExchangeIsKept
  intro i s t hs ht
  obtain ⟨hdone, hidx, hfail, hvalid, hcrc, hbuf⟩ | ⟨hi, hdone⟩ := exec_sameJudgement hs ht
  · exact ⟨fun _ _ _ => hdone.trans hs, fun _ => ⟨hidx, hfail, hvalid, hcrc, fun j => by rw [hbuf]⟩⟩
  · refine ⟨fun hreset harm hwr => ?_, fun h1 => absurd (hdone.symm.trans h1) nofun⟩
    obtain hi | hi | hi := hi
    · exact absurd hi hreset
    · exact absurd hi harm
    · exact absurd hi hwr

/-- R33: the latched frame, FRM_LEN and FRM_DATA, is as it was. -/
def SameLatch (s t : State) : Prop := t.frmLen = s.frmLen ∧ t.frmData = s.frmData

/-- R149: a byte to CFD outputs a frame, or leaves the latched one. -/
theorem cfdByte_latch (b : Byte) (s : State) :
    (∃ len data, (cfdByte b s).out = s.out ++ [.frame len data]) ∨ SameLatch s (cfdByte b s) := by
  unfold cfdByte
  split
  · unfold rxSeekHeader0; split <;> exact .inr ⟨rfl, rfl⟩
  · unfold rxSeekHeader1; split <;> exact .inr ⟨rfl, rfl⟩
  · exact .inr ⟨rfl, rfl⟩
  · dsimp only [rxReadLenLo]; split <;> exact .inr ⟨rfl, rfl⟩
  · exact .inr ⟨rfl, rfl⟩
  · exact .inr ⟨rfl, rfl⟩
  · unfold rxReadChecksumLo
    split
    · exact .inl ⟨_, _, rfl⟩
    · exact .inr ⟨rfl, rfl⟩

theorem execRx_latch {b : Byte} {s t : State} (h : execRx b s = .next t) :
    (∃ len data, t.out = s.out ++ [.frame len data]) ∨ SameLatch s t := by
  obtain ⟨-, -, rfl⟩ | ⟨-, -, rfl⟩ | ⟨-, -, -, -, rfl⟩ | ⟨-, -, -, -, rfl⟩ := execRx_cases h
  · exact cfdByte_latch b s
  · exact .inr ⟨rfl, rfl⟩
  · exact .inr ⟨rfl, rfl⟩
  · exact .inr ⟨rfl, rfl⟩

/-- A run of bytes outputs a frame somewhere, or leaves the latched one. -/
theorem feedBytes_latch {bs : List Byte} {s t : State} (h : feedBytes bs s = .next t) :
    (∃ o ∈ outputsSince s t, o.isFrame = true) ∨ SameLatch s t := by
  induction bs generalizing s with
  | nil => cases h; exact .inr ⟨rfl, rfl⟩
  | cons b bs ih =>
    obtain ⟨u, hu, ht⟩ := andThen_eq_next h
    obtain ⟨o, hou⟩ := execRx_out hu
    obtain ⟨os, hot⟩ := feedBytes_out bs ht
    have hst : outputsSince s t = o :: os := outputsSince_append (by rw [hot, hou, List.append_assoc, List.singleton_append])
    rw [hst]
    obtain ⟨len, data, hframe⟩ | ⟨hlen, hdata⟩ := execRx_latch hu
    · obtain rfl : o = .frame len data := by simpa [hou] using hframe
      exact .inl ⟨_, List.mem_cons_self, rfl⟩
    · refine (ih ht).imp (fun ⟨o', hmem, hframe⟩ => ?_) fun ⟨hlen', hdata'⟩ => ⟨hlen'.trans hlen, hdata'.trans hdata⟩
      rw [outputsSince_append hot] at hmem
      exact ⟨o', List.mem_cons_of_mem _ hmem, hframe⟩

/-- Of the host's events, only RESET touches the latched frame. -/
theorem HostEffect.sameLatch {i : Instr} {s t : State} (h : HostEffect i s t) (hi : i ≠ .reset) : SameLatch s t := by
  cases h with
  | reset h => exact absurd h hi
  | _ => exact ⟨rfl, rfl⟩

/-- Settles O39: byte by byte, the latched frame changes with a `FRAME` output only. -/
theorem latchedFrameOnlyByEmission : Obligations.LatchedFrameOnlyByEmission := by
  unfold Obligations.LatchedFrameOnlyByEmission
  intro i s t hi ht hsilent
  have same : SameLatch s t := by
    obtain ⟨bs, hbs⟩ | he := exec_effect ht
    · refine (feedBytes_latch hbs).resolve_left fun ⟨o, hmem, hframe⟩ => ?_
      exact absurd (hframe.symm.trans (hsilent o hmem)) nofun
    · exact he.sameLatch hi
  obtain ⟨hlen, hdata⟩ := same
  exact ⟨hlen, fun j => by rw [hdata]⟩

/-- Bytes do not touch CFG_ERR: no byte is a host access (R204). -/
theorem feedBytes_cfgErr {bs : List Byte} {s t : State} (h : feedBytes bs s = .next t) : t.cfgErr = s.cfgErr :=
  feedBytes_keeps (fun u => u.cfgErr = s.cfgErr) (fun b u v hu hv => by
    obtain ⟨-, hv⟩ | ⟨-, hv⟩ := onlyOneUnitChanged hv <;> (rw [hv]; exact hu)) bs rfl h

/-- R204, R34: which of the host's events touch CFG_ERR, and which way. -/
theorem HostEffect.cfgErr {i : Instr} {s t : State} (h : HostEffect i s t) :
    t.cfgErr = s.cfgErr ∨ (t.cfgErr = false ∧ (i = .reset ∨ i = .cmdFlagClr ∨ i = .wr 0x001 0x0004)) ∨
      (t.cfgErr = true ∧ (i = .cmdMbEncode ∨ i = .cmdMbArm ∨ ∃ r v, i = .wr r v)) := by
  cases h with
  | reset hi => exact .inr (.inl ⟨rfl, .inl hi⟩)
  | flagClr hi => exact .inr (.inl ⟨rfl, .inr hi⟩)
  | refused hi => exact .inr (.inr ⟨rfl, hi⟩)
  | _ => exact .inl rfl

/-- Settles O40: CFG_ERR is as it was, or was cleared or set by an event of the list. -/
theorem cfgErrIsSticky : Obligations.CfgErrIsSticky := by
  unfold Obligations.CfgErrIsSticky
  intro i s t ht
  have moves := (exec_effect ht).elim (fun ⟨bs, hbs⟩ => .inl (feedBytes_cfgErr hbs)) HostEffect.cfgErr
  obtain same | ⟨cleared, hi⟩ | ⟨raised, hi⟩ := moves
  · exact ⟨fun h1 h0 => absurd (h1.symm.trans (same.symm.trans h0)) nofun,
      fun h0 h1 => absurd (h0.symm.trans (same.symm.trans h1)) nofun⟩
  · exact ⟨fun _ _ => hi, fun _ h1 => absurd (cleared.symm.trans h1) nofun⟩
  · exact ⟨fun _ h0 => absurd (raised.symm.trans h0) nofun, fun _ _ => hi⟩

/-- R46: the reset values of the register map; MB_CRC's is the only one that is not 0. -/
theorem hostRead_afterReset (s : State) (r : RegNum) : hostRead s.afterReset r = if r = 0x016 then 0xFFFF else 0 := by
  split
  · next h => subst h; rfl
  · next h =>
    unfold hostRead
    cases hr : regAt r with
    | none => rfl
    | some g =>
      obtain ⟨rfl, -⟩ := regAt_some hr
      cases g with
      | mbCrc => exact absurd rfl h
      | _ => rfl

/-- Settles O6: RESET and power-on leave the same values in every register. -/
theorem resetRestoresEverything : Obligations.ResetRestoresEverything := by
  unfold Obligations.ResetRestoresEverything
  have seek : State.reset.Seeking := ⟨rfl, rfl, rfl, rfl, rfl⟩
  refine ⟨fun _ => rfl, fun s => ⟨s.afterReset.emit .none, rfl, fun r => ?_, fun _ => rfl, seek, rfl, rfl, rfl, rfl⟩,
    hostRead_afterReset State.reset, fun _ => rfl, seek⟩
  rw [← hostRead_afterReset s r]
  exact hostRead_congr fun g _ => by cases g <;> rfl

/-- U14 (log 5): what is outside R45 for an armed collector. -/
theorem collectorOk_eq_false {s : State}
    (h : s.expectedLenLegal = false ∨ s.expectedLen ≤ s.mbIdx.toNat ∨ s.mbDone = true) : s.collectorOk = false := by
  obtain h | h | h := h <;> simp [State.collectorOk, h]

/-- Settles O14: the tests of `rxTelemetry` and `rxCollector` fail. -/
theorem unreachableStatesFault : Obligations.UnreachableStatesFault := by
  unfold Obligations.UnreachableStatesFault
  intro s b
  show (_ → _ → execRx b s = _) ∧ (_ → _ → _ → execRx b s = _)
  refine ⟨fun hsel hpos => ?_, fun hsel hout h => ?_⟩
  · simp [execRx, hsel, rxTelemetry, hpos]
  · simp [execRx, hsel, rxCollector, hout, collectorOk_eq_false h]

end Sys2Proof.Machine
end

section
/-! PROOFS. A step executes the item at the head of the run (R66, R70, R80), and is idle where there is none (log 8). -/

namespace Sys2Proof.Machine

@[simp] theorem step_nil {s : State} (h : s.input = []) : step s = .next s := by
  simp only [step, fetch_nil h]

theorem step_cons {s : State} {t : Token} {ts : List Token} {i : Instr} (h : s.input = t :: ts)
    (hi : decode s.cfg t = .ok i) : step s = exec i { s with input := ts } := by
  simp only [step, fetch_cons h, hi]

/-- R80: a placed table word is the next item of the run, so executing it leaves the run as it was. -/
theorem step_withFetchWord {s : State} {nbits w : Nat} {i : Instr}
    (hi : decode s.cfg (tokenOfTableWord s.cfg nbits w) = .ok i) : step (s.withFetchWord nbits w) = exec i s :=
  step_cons (s := s.withFetchWord nbits w) rfl hi

/-- Settles O5: the next item is taken off the run and executed; a placed word is that item; an empty run is idle. -/
theorem stepRunsDecoded : Obligations.StepRunsDecoded := by
  unfold Obligations.StepRunsDecoded
  exact ⟨fun _ _ _ _ => step_cons, fun _ _ _ _ => step_withFetchWord, fun _ => step_nil⟩

end Sys2Proof.Machine
end

section
/-! SUPPORT. The event words by their fields (R81): every word is a KIND, a register number and a data field, the decoder has one
equation a format, and an opcode names its command row (R84). -/

namespace Sys2Proof.Machine

/-- The event word with the three fields of format W (R81). -/
def eventWord (kind : BitVec 4) (r : RegNum) (v : Half) : EventWord := kind ++ r ++ v

theorem eventWord_toNat (kind : BitVec 4) (r : RegNum) (v : Half) :
    (eventWord kind r v).toNat = kind.toNat * 2 ^ 28 + r.toNat * 2 ^ 16 + v.toNat := by
  have hr := r.isLt
  rw [eventWord, BitVec.toNat_append, BitVec.toNat_append, ← Nat.shiftLeft_add_eq_or_of_lt v.isLt,
    ← Nat.shiftLeft_add_eq_or_of_lt hr, Nat.shiftLeft_eq, Nat.shiftLeft_eq]
  omega

section
variable (kind : BitVec 4) (r : RegNum) (v : Half)

theorem eventWord_kind : (eventWord kind r v).extractLsb' 28 4 = kind := by
  apply BitVec.eq_of_toNat_eq
  rw [BitVec.extractLsb'_toNat, eventWord_toNat, Nat.shiftRight_eq_div_pow]
  omega

theorem eventWord_reg : (eventWord kind r v).extractLsb' 16 12 = r := by
  apply BitVec.eq_of_toNat_eq
  rw [BitVec.extractLsb'_toNat, eventWord_toNat, Nat.shiftRight_eq_div_pow]
  omega

theorem eventWord_data : (eventWord kind r v).extractLsb' 0 16 = v := by
  apply BitVec.eq_of_toNat_eq
  rw [BitVec.extractLsb'_toNat, eventWord_toNat, Nat.shiftRight_zero]
  omega

theorem eventWord_dataHi : (eventWord kind r v).extractLsb' 8 8 = hi8 v := by
  apply BitVec.eq_of_toNat_eq
  rw [BitVec.extractLsb'_toNat, eventWord_toNat, hi8_toNat, Nat.shiftRight_eq_div_pow]
  omega

theorem eventWord_dataLo : (eventWord kind r v).extractLsb' 0 8 = lo8 v := by
  apply BitVec.eq_of_toNat_eq
  rw [BitVec.extractLsb'_toNat, eventWord_toNat, lo8_toNat, Nat.shiftRight_zero]
  omega

end

/-- Every word has its fields. -/
theorem exists_eventWord (w : EventWord) : ∃ kind r v, w = eventWord kind r v := by
  refine ⟨w.extractLsb' 28 4, w.extractLsb' 16 12, w.extractLsb' 0 16, BitVec.eq_of_toNat_eq ?_⟩
  have hw := w.isLt
  simp only [eventWord_toNat, BitVec.extractLsb'_toNat, Nat.shiftRight_eq_div_pow]
  omega

/-- Format B's word by its fields. -/
theorem rxWord_eq (b : Byte) : (0x100000 : BitVec 24) ++ b = eventWord 1 0 (cat16 0x00 b) := by
  apply BitVec.eq_of_toNat_eq
  rw [BitVec.toNat_append, ← Nat.shiftLeft_add_eq_or_of_lt b.isLt, eventWord_toNat, cat16_toNat]
  simp

/-- KIND names one of the four formats, or is reserved (R81, R82). -/
theorem kind_cases (kind : BitVec 4) : kind = 0 ∨ kind = 1 ∨ kind = 2 ∨ kind = 3 ∨ 4 ≤ kind.toNat := by
  revert kind; decide

section
variable (r : RegNum) (v : Half)

/-- Format Z. -/
theorem decodeWord_formatZ :
    decodeWord (eventWord 0 r v) = if r = 0 ∧ v = 0 then .ok .reset else .error .reservedEventWord := by
  simp [decodeWord, eventWord_kind, eventWord_reg, eventWord_data]

/-- Format B. -/
theorem decodeWord_formatB :
    decodeWord (eventWord 1 r v) = if r = 0 ∧ hi8 v = 0 then .ok (.rx (lo8 v)) else .error .reservedEventWord := by
  simp [decodeWord, eventWord_kind, eventWord_reg, eventWord_dataHi, eventWord_dataLo]

/-- Format W. -/
theorem decodeWord_formatW : decodeWord (eventWord 2 r v) = .ok (decodeWrite r v) := by
  simp [decodeWord, eventWord_kind, eventWord_reg, eventWord_data]

/-- Format R. -/
theorem decodeWord_formatR :
    decodeWord (eventWord 3 r v) = if v = 0 then .ok (.rd r) else .error .reservedEventWord := by
  simp [decodeWord, eventWord_kind, eventWord_reg, eventWord_data]

/-- R82: the reserved values of KIND. -/
theorem decodeWord_reservedKind {kind : BitVec 4} (h : 4 ≤ kind.toNat) :
    decodeWord (eventWord kind r v) = .error .reservedEventWord := by
  have hne : ∀ k : BitVec 4, k.toNat < 4 → kind ≠ k := fun k hk he => by subst he; omega
  simp only [decodeWord, eventWord_kind, if_neg (hne 0 (by decide)), if_neg (hne 1 (by decide)),
    if_neg (hne 2 (by decide)), if_neg (hne 3 (by decide))]

end

/-- R84: every command row has an opcode. -/
theorem exists_opcode {i : Instr} (h : i ∈ commandInstrs) : ∃ v, commandOf v = some i := by
  simp only [commandInstrs, List.mem_cons, List.not_mem_nil, or_false] at h
  obtain rfl | rfl | rfl | rfl | rfl | rfl | rfl | rfl := h
  · exact ⟨0x0000, rfl⟩
  · exact ⟨0x0001, rfl⟩
  · exact ⟨0x0002, rfl⟩
  · exact ⟨0x0003, rfl⟩
  · exact ⟨0x0004, rfl⟩
  · exact ⟨0x0010, rfl⟩
  · exact ⟨0x0011, rfl⟩
  · exact ⟨0x0012, rfl⟩

/-- R84: a command is spelled as the write of its opcode to CMD. -/
theorem encode_command (cfg : Config) {v : Half} {i : Instr} (h : commandOf v = some i) :
    encode cfg i = .word (eventWord 2 0x001 v) ∧ i.wellFormed = true := by
  unfold commandOf at h
  split_ifs at h <;> subst v <;> cases h <;> exact ⟨rfl, rfl⟩

/-- R84: the opcodes are the values that name a command. -/
theorem commandOf_eq_none_iff (v : Half) : commandOf v = none ↔ commandOpcodes.contains v = false := by
  unfold commandOf
  split_ifs <;> simp_all [commandOpcodes]

theorem decodeWrite_command {v : Half} {i : Instr} (h : commandOf v = some i) : decodeWrite 0x001 v = i := by
  simp [decodeWrite, h]

/-- R108: a well-formed write spells no command. -/
theorem decodeWrite_of_wellFormed {r : RegNum} {v : Half} (h : (Instr.wr r v).wellFormed = true) :
    decodeWrite r v = .wr r v := by
  by_cases hr : r = 0x001
  · have hv : commandOf v = none := (commandOf_eq_none_iff v).mpr (by simpa [Instr.wellFormed, hr] using h)
    simp [decodeWrite, hv]
  · exact if_neg hr

/-- R81, R84: what format W decodes to is spelled by the same word, and is well-formed. -/
theorem encode_decodeWrite (cfg : Config) (r : RegNum) (v : Half) :
    encode cfg (decodeWrite r v) = .word (eventWord 2 r v) ∧ (decodeWrite r v).wellFormed = true := by
  by_cases hr : r = 0x001
  · subst hr
    cases hv : commandOf v with
    | some i =>
      rw [decodeWrite_command hv]
      exact encode_command cfg hv
    | none =>
      have hwf : (Instr.wr 0x001 v).wellFormed = true := by
        simpa [Instr.wellFormed] using (commandOf_eq_none_iff v).mp hv
      rw [decodeWrite_of_wellFormed hwf]
      exact ⟨rfl, hwf⟩
  · have hwf : (Instr.wr r v).wellFormed = true := by
      simp only [Instr.wellFormed, beq_eq_false_iff_ne.mpr hr, Bool.false_and, Bool.not_false]
    rw [decodeWrite_of_wellFormed hwf]
    exact ⟨rfl, hwf⟩

end Sys2Proof.Machine
end

section
/-! SUPPORT. The wire frames (R90, R93): a byte string has a telemetry frame's header and length exactly where it is one, and the
decoder has one equation a kind. -/

namespace Sys2Proof.Machine

theorem length_telemetryBytes (lenLo : Byte) (p : List Byte) (c : Half) :
    (telemetryBytes lenLo p c).length = p.length + 6 := by
  simp [telemetryBytes]

/-- A byte string with a frame's header and length is that frame's bytes, its payload and checksum read by position (R90). -/
theorem eq_telemetryBytes {bs : List Byte} {lenLo : Byte} {n : Nat} (hhead : bs.take 4 = [HDR0, HDR1, 0x00, lenLo])
    (hlen : bs.length = n + 6) :
    bs = telemetryBytes lenLo ((bs.drop 4).take n) (cat16 (bs.getD (n + 4) 0) (bs.getD (n + 5) 0)) := by
  have htail : (bs.drop 4).drop n = [bs.getD (n + 4) 0, bs.getD (n + 5) 0] := by
    rw [List.drop_drop, Nat.add_comm 4 n, List.drop_eq_getElem_cons (by omega), List.drop_eq_getElem_cons (by omega),
      List.drop_eq_nil_of_le (by omega), List.getD_eq_getElem _ _ (by omega), List.getD_eq_getElem _ _ (by omega)]
  rw [telemetryBytes, hi8_cat16, lo8_cat16, ← htail, ← hhead, List.append_assoc, List.take_append_drop,
    List.take_append_drop]

/-- A frame's bytes have its header, its payload and its checksum at their positions (R90). -/
theorem telemetryBytes_parts (lenLo : Byte) (p : List Byte) (c : Half) :
    (telemetryBytes lenLo p c).take 4 = [HDR0, HDR1, 0x00, lenLo] ∧
    ((telemetryBytes lenLo p c).drop 4).take p.length = p ∧
    cat16 ((telemetryBytes lenLo p c).getD (p.length + 4) 0) ((telemetryBytes lenLo p c).getD (p.length + 5) 0) = c := by
  simp [telemetryBytes]

/-- R90, R91: a frame with length field 20. -/
theorem decodeTelemetry_tframe20 {p : List Byte} (c : Half) (hp : p.length = 18) :
    decodeTelemetry (telemetryBytes 0x14 p c) = .ok (.tframe20 p c) := by
  obtain ⟨hhead, hpayload, hsum⟩ := telemetryBytes_parts 0x14 p c
  rw [hp] at hpayload hsum
  unfold decodeTelemetry
  rw [if_pos ⟨hhead, by rw [length_telemetryBytes, hp]⟩]
  exact congrArg Except.ok (congrArg₂ Instr.tframe20 hpayload hsum)

/-- R90, R91: a frame with length field 28. -/
theorem decodeTelemetry_tframe28 {p : List Byte} (c : Half) (hp : p.length = 26) :
    decodeTelemetry (telemetryBytes 0x1C p c) = .ok (.tframe28 p c) := by
  obtain ⟨hhead, hpayload, hsum⟩ := telemetryBytes_parts 0x1C p c
  rw [hp] at hpayload hsum
  unfold decodeTelemetry
  rw [if_neg fun h => absurd (hhead.symm.trans h.1) (by decide), if_pos ⟨hhead, by rw [length_telemetryBytes, hp]⟩]
  exact congrArg Except.ok (congrArg₂ Instr.tframe28 hpayload hsum)

/-- What decodes to a telemetry frame is that frame's bytes. -/
theorem encode_decodeTelemetry (cfg : Config) {bs : List Byte} {i : Instr} (h : decodeTelemetry bs = .ok i) :
    encode cfg i = .frame bs ∧ i.wellFormed = true := by
  unfold decodeTelemetry at h
  split_ifs at h with h20 h28 <;> cases h
  · obtain ⟨hhead, hlen⟩ := h20
    exact ⟨congrArg Token.frame (eq_telemetryBytes (n := 18) hhead hlen).symm, by simp [Instr.wellFormed, hlen]⟩
  · obtain ⟨hhead, hlen⟩ := h28
    exact ⟨congrArg Token.frame (eq_telemetryBytes (n := 26) hhead hlen).symm, by simp [Instr.wellFormed, hlen]⟩

/-- R108: no telemetry frame has the length of a request. -/
theorem decodeFrame_eq_decodeTelemetry (cfg : Config) {bs : List Byte} (h : bs.length ≠ REQ_LEN) :
    decodeFrame cfg bs = decodeTelemetry bs := by
  unfold decodeFrame
  split
  · exact absurd rfl h
  · rfl

/-- R93, R108: a request from the block's address is told by its function code. -/
theorem decodeFrame_requestBytes (cfg : Config) (f : Byte) (reg val crc : Half) :
    decodeFrame cfg (requestBytes cfg.devAddr f reg val crc) =
      if f = cfg.rfA then .ok (.mbreqReadA reg val crc)
      else if f = cfg.rfB then .ok (.mbreqReadB reg val crc)
      else if f = cfg.wf then .ok (.mbreqWrite reg val crc)
      else .error .notAWireFrame := by
  simp [decodeFrame, requestBytes]

/-- What decodes to a wire frame is that frame's bytes. -/
theorem encode_decodeFrame {cfg : Config} {bs : List Byte} {i : Instr} (h : decodeFrame cfg bs = .ok i) :
    encode cfg i = .frame bs ∧ i.wellFormed = true := by
  unfold decodeFrame at h
  split at h
  · split_ifs at h with haddr hA hB hW <;> cases h
    · exact ⟨by simp [encode, requestBytes, haddr, hA], rfl⟩
    · exact ⟨by simp [encode, requestBytes, haddr, hB], rfl⟩
    · exact ⟨by simp [encode, requestBytes, haddr, hW], rfl⟩
  · exact encode_decodeTelemetry cfg h

end Sys2Proof.Machine
end

section
/-! PROOFS. The decoder and the encoder agree (R81, R84, R90, R93, R108), and step refuses exactly the reserved words (R82). -/

namespace Sys2Proof.Machine

/-- R84: decoding an encoded command gives it back. -/
theorem decode_encode_command (cfg : Config) {i : Instr} (h : i ∈ commandInstrs) : decode cfg (encode cfg i) = .ok i := by
  obtain ⟨v, hv⟩ := exists_opcode h
  rw [(encode_command cfg hv).1, decode, decodeWord_formatW, decodeWrite_command hv]

/-- Settles O2: each format and each frame kind by its equation of the decoder. -/
theorem decodeOfEncode : Obligations.DecodeOfEncode := by
  unfold Obligations.DecodeOfEncode
  intro cfg i ⟨hAB, hAW, hBW⟩ hwf
  cases i with
  | reset => rfl
  | rx b =>
    rw [encode, rxWord_eq, decode, decodeWord_formatB, hi8_cat16, lo8_cat16, if_pos ⟨rfl, rfl⟩]
  | wr r v => exact (decodeWord_formatW r v).trans (congrArg Except.ok (decodeWrite_of_wellFormed hwf))
  | rd r => exact decodeWord_formatR r 0
  | cmdNop | cmdSyncClr | cmdFrmAck | cmdDiagClr | cmdFlagClr | cmdMbEncode | cmdMbArm | cmdMbAbort =>
    exact decode_encode_command cfg (by decide)
  | tframe20 p c =>
    have hp : p.length = 18 := beq_iff_eq.mp hwf
    exact (decodeFrame_eq_decodeTelemetry cfg (by rw [length_telemetryBytes, hp]; decide)).trans
      (decodeTelemetry_tframe20 c hp)
  | tframe28 p c =>
    have hp : p.length = 26 := beq_iff_eq.mp hwf
    exact (decodeFrame_eq_decodeTelemetry cfg (by rw [length_telemetryBytes, hp]; decide)).trans
      (decodeTelemetry_tframe28 c hp)
  | mbreqReadA reg n crc => rw [encode, decode, decodeFrame_requestBytes, if_pos rfl]
  | mbreqReadB reg n crc => rw [encode, decode, decodeFrame_requestBytes, if_neg hAB.symm, if_pos rfl]
  | mbreqWrite reg v crc => rw [encode, decode, decodeFrame_requestBytes, if_neg hAW.symm, if_neg hBW.symm, if_pos rfl]

/-- R81: what a word decodes to is spelled by that word. -/
theorem encode_decodeWord (cfg : Config) {w : EventWord} {i : Instr} (h : decodeWord w = .ok i) :
    encode cfg i = .word w ∧ i.wellFormed = true := by
  obtain ⟨kind, r, v, rfl⟩ := exists_eventWord w
  obtain rfl | rfl | rfl | rfl | hkind := kind_cases kind
  · rw [decodeWord_formatZ] at h
    split_ifs at h with h0
    obtain ⟨rfl, rfl⟩ := h0
    cases h
    exact ⟨rfl, rfl⟩
  · rw [decodeWord_formatB] at h
    split_ifs at h with h0
    obtain ⟨rfl, hv⟩ := h0
    cases h
    exact ⟨by rw [encode, rxWord_eq, ← hv, cat16_hi8_lo8], rfl⟩
  · rw [decodeWord_formatW] at h
    cases h
    exact encode_decodeWrite cfg r v
  · rw [decodeWord_formatR] at h
    split_ifs at h with h0
    subst h0
    cases h
    exact ⟨rfl, rfl⟩
  · rw [decodeWord_reservedKind r v hkind] at h
    cases h

/-- Settles O3: an event word has its fields back, a wire frame its bytes. -/
theorem encodeOfDecode : Obligations.EncodeOfDecode := by
  unfold Obligations.EncodeOfDecode
  intro cfg t i h
  cases t with
  | word w => exact encode_decodeWord cfg h
  | frame bs => exact encode_decodeFrame h

/-- No byte is refused as an instruction: it is taken, or faults (U14). -/
theorem execRx_ne_refused (b : Byte) (s : State) (e : Refusal) : execRx b s ≠ .refused e := by
  unfold execRx rxTelemetry rxCollector
  split_ifs <;> nofun

theorem feedBytes_ne_refused (bs : List Byte) (s : State) (e : Refusal) : feedBytes bs s ≠ .refused e := by
  induction bs generalizing s with
  | nil => nofun
  | cons b bs ih =>
    rw [feedBytes_cons]
    cases hb : execRx b s with
    | next u => exact ih u
    | fault f => nofun
    | refused e' => exact absurd hb (execRx_ne_refused b s e')

theorem CompletesWith.ne_refused {o : Output} {s : State} {r : Result} (h : CompletesWith o s r) (e : Refusal) :
    r ≠ .refused e := by
  obtain ⟨t, rfl, -⟩ := h
  nofun

/-- Every instruction has a meaning. -/
theorem exec_ne_refused (i : Instr) (s : State) (e : Refusal) : exec i s ≠ .refused e := by
  cases i with
  | reset => exact (completesWith_execReset s).ne_refused e
  | rx b => exact execRx_ne_refused b s e
  | wr r v => exact (completesWith_execWr r v s).ne_refused e
  | rd r => exact (completesWith_execRd r s).ne_refused e
  | cmdNop | cmdSyncClr | cmdFrmAck | cmdDiagClr | cmdFlagClr | cmdMbEncode | cmdMbArm | cmdMbAbort =>
    exact (completesWith_command (by decide) s).ne_refused e
  | tframe20 | tframe28 | mbreqReadA | mbreqReadB | mbreqWrite => exact feedBytes_ne_refused _ s e

/-- R82: a step refuses an item as a reserved event word exactly where the decoder does. -/
theorem step_refused_iff {s : State} {t : Token} {ts : List Token} (h : s.input = t :: ts) :
    step s = .refused .reservedEventWord ↔ decode s.cfg t = .error .reservedEventWord := by
  simp only [step, fetch_cons h]
  cases decode s.cfg t with
  | ok i => exact iff_of_false (exec_ne_refused i _ _) nofun
  | error d => cases d <;> simp [refusalOf]

/-- A decoder that accepts on a condition refuses exactly where the condition fails. -/
theorem ite_ok_eq_error_iff {P : Prop} [Decidable P] (i : Instr) (e : DecodeError) :
    (if P then Except.ok i else Except.error e) = .error e ↔ ¬ P := by
  by_cases h : P <;> simp [h]

/-- R82: the reserved words by their fields. -/
theorem decodeWord_error_iff (kind : BitVec 4) (r : RegNum) (v : Half) :
    decodeWord (eventWord kind r v) = .error .reservedEventWord ↔
      4 ≤ kind.toNat ∨ (kind = 0 ∧ ¬ (r = 0 ∧ v = 0)) ∨ (kind = 1 ∧ ¬ (r = 0 ∧ hi8 v = 0)) ∨ (kind = 3 ∧ v ≠ 0) := by
  obtain rfl | rfl | rfl | rfl | hkind := kind_cases kind
  · rw [decodeWord_formatZ, ite_ok_eq_error_iff]; simp
  · rw [decodeWord_formatB, ite_ok_eq_error_iff]; simp
  · rw [decodeWord_formatW]; simp
  · rw [decodeWord_formatR, ite_ok_eq_error_iff]; simp
  · exact iff_of_true (decodeWord_reservedKind r v hkind) (.inl hkind)

/-- Settles O4: the fields of a word are the quotients and remainders of its number. -/
theorem reservedWordsRefusedByName : Obligations.ReservedWordsRefusedByName := by
  unfold Obligations.ReservedWordsRefusedByName
  intro s w rest hs
  obtain ⟨kind, r, v, rfl⟩ := exists_eventWord w
  rw [step_refused_iff hs, decode, decodeWord_error_iff, eventWord_toNat]
  have hr := r.isLt
  have hv := v.isLt
  simp only [← BitVec.toNat_inj, hi8_toNat, ne_eq, BitVec.ofNat_eq_ofNat, BitVec.toNat_ofNat]
  omega

/-- Settles O1: the decoder evaluated on each word and frame. -/
theorem writtenOutWordsDecode : Obligations.WrittenOutWordsDecode :=
  ⟨rfl, rfl, rfl, rfl, rfl, rfl, rfl, rfl⟩

end Sys2Proof.Machine
end

section
/-! SUPPORT. Runs of bytes in a buffer: the last one apart, and read back from index 0 on. -/

namespace Sys2Proof.Machine

theorem Memory.writeBytes_concat (m : Memory) (i : Nat) (bs : List Byte) (b : Byte) :
    Memory.writeBytes m i (bs ++ [b]) = (Memory.writeBytes m i bs).write (i + bs.length) b := by
  induction bs generalizing m i with
  | nil => rfl
  | cons c bs ih => rw [List.cons_append, Memory.writeBytes, ih, List.length_cons, Nat.add_right_comm]; rfl

/-- What was written from index 0 on is read back. -/
theorem Memory.readBytes_writeBytes (m : Memory) (bs : List Byte) :
    Memory.readBytes (Memory.writeBytes m 0 bs) bs.length = bs := by
  refine List.ext_getElem (by simp) fun i _ hi => ?_
  simp [Memory.readBytes, Memory.read_writeBytes, hi]

end Sys2Proof.Machine
end

section
/-! SUPPORT. A run of bytes at an armed collector (R178, R179, R182): what it leaves in the collector, and the exchange it
completes. -/

namespace Sys2Proof.Machine

/-- R178, R45: the collector waits for a byte; that MB_IDX is below the expected length is said apart. -/
structure State.Listening (s : State) : Prop where
  sel : s.rxsel = true
  out : s.mbOut = true
  notDone : s.mbDone = false
  legal : s.expectedLenLegal = true

/-- R179: MB_CRC after a run of bytes; in CRC mode those before the trailing two of the exchange are folded. -/
def State.crcAfter (s : State) (bs : List Byte) : Half :=
  match s.mbVmode with
  | .crc => (bs.take (s.expectedLen - 2 - s.mbIdx.toNat)).foldl crcStep s.mbCrc
  | .echo => s.mbCrc

@[simp] theorem State.crcAfter_nil (s : State) : s.crcAfter [] = s.mbCrc := by
  unfold State.crcAfter
  split
  · rw [List.take_nil, List.foldl_nil]
  · rfl

theorem State.crcAfter_echo {s : State} (h : s.mbVmode = .echo) (bs : List Byte) : s.crcAfter bs = s.mbCrc := by
  rw [State.crcAfter, h]

/-- The first byte is folded where it is before the trailing two, then the others are. -/
theorem State.crcAfter_cons {s : State} (b : Byte) (bs : List Byte) (h : s.mbIdx.toNat < 260) :
    s.crcAfter (b :: bs) = (s.collect b).crcAfter bs := by
  cases hm : s.mbVmode with
  | echo => rw [crcAfter_echo hm, crcAfter_echo (s := s.collect b) hm]; simp [State.foldsCrc, hm]
  | crc =>
    have hlen : (s.collect b).expectedLen = s.expectedLen := rfl
    simp only [State.crcAfter, hm, State.collect_mbVmode, hlen, collect_mbIdx_toNat b le_rfl h, State.collect_mbCrc]
    by_cases hf : s.mbIdx.toNat < s.expectedLen - 2
    · have hfold : s.foldsCrc = true := by simp [State.foldsCrc, hm, hf]
      have hleft : s.expectedLen - 2 - s.mbIdx.toNat = s.expectedLen - 2 - (s.mbIdx.toNat + 1) + 1 := by omega
      rw [hleft, List.take_succ_cons, List.foldl_cons, if_pos hfold]
    · have hfold : s.foldsCrc = false := by simp [State.foldsCrc, hf]
      rw [Nat.sub_eq_zero_of_le (by omega), Nat.sub_eq_zero_of_le (by omega), hfold]
      rfl

/-- R178: the state after a run of bytes, its outputs aside: the bytes are stored, folded and counted. -/
def State.received (s : State) (bs : List Byte) : State :=
  { s with
    rxbuf := s.rxbuf.writeBytes s.mbIdx.toNat bs
    mbCrc := s.crcAfter bs
    mbIdx := s.mbIdx + BitVec.ofNat 9 bs.length }

@[simp] theorem State.received_nil (s : State) : s.received [] = s := by
  simp [State.received, Memory.writeBytes]

/-- The first byte of a run is collected, then the others. -/
theorem State.received_cons {s : State} (b : Byte) (bs : List Byte) (h : s.mbIdx.toNat < 260) :
    s.received (b :: bs) = (s.collect b).received bs := by
  have hcount : s.mbIdx + BitVec.ofNat 9 (bs.length + 1) = s.mbIdx + 1 + BitVec.ofNat 9 bs.length := by
    rw [BitVec.ofNat_add, BitVec.add_comm (BitVec.ofNat 9 bs.length), ← BitVec.add_assoc]
    rfl
  simp only [State.received, State.crcAfter_cons b bs h, List.length_cons, hcount, Memory.writeBytes,
    State.collect_rxbuf, collect_mbIdx_toNat b le_rfl h]
  rfl

/-- An output beforehand stays before the later ones. -/
theorem State.received_emit (s : State) (o : Output) (bs : List Byte) (os : List Output) :
    ((s.emit o).received bs).appendOut os = (s.received bs).appendOut (o :: os) := by
  simp only [State.appendOut, State.emit_out, State.received, List.append_assoc, List.singleton_append]
  rfl

/-- R178, R182: the run of bytes that fills the exchange completes it with the last one. -/
theorem feedBytes_completes {s : State} (h : s.Listening) (b : Byte) (bs : List Byte)
    (hlen : s.mbIdx.toNat + (bs.length + 1) = s.expectedLen) :
    feedBytes (b :: bs) s =
      .next ((s.received (b :: bs)).appendOut (List.replicate bs.length .none)).complete := by
  induction bs generalizing b s with
  | nil =>
    have hn := expectedLen_le h.legal
    rw [feedBytes_singleton, execRx_completes b h.sel h.out h.notDone h.legal hlen,
      State.received_cons b [] (by omega), State.received_nil]
    exact congrArg (fun u => Host.Outcome.next (State.complete u)) (State.appendOut_nil _).symm
  | cons c bs ih =>
    rw [List.length_cons] at hlen
    have hn := expectedLen_le h.legal
    have hidx : s.mbIdx.toNat < 260 := by omega
    have hnext : ((s.collect b).emit .none).Listening := { h with }
    have hcount : ((s.collect b).emit .none).mbIdx.toNat + (bs.length + 1) = s.expectedLen := by
      rw [State.emit_mbIdx, collect_mbIdx_toNat b le_rfl hidx]; omega
    rw [feedBytes_cons, execRx_collects b h.sel h.out h.notDone h.legal (by omega), andThen_next, ih hnext c hcount,
      State.received_emit, State.received_cons b (c :: bs) hidx]
    rfl

/-- R181: no byte differs from the request byte at its index. -/
theorem failEcho_eq_false_iff (b tx : Memory) (n : Nat) : failEcho b tx n = false ↔ b.readBytes n = tx.readBytes n := by
  simp [failEcho, Memory.readBytes]

/-- R181: in ECHO mode the verdict is 0 where the response is the request. -/
theorem verdict_echo_eq_zero {s : State} (hm : s.mbVmode = .echo)
    (h : s.rxbuf.readBytes s.txLen.val = s.txbuf.readBytes s.txLen.val) : s.verdict = 0 := by
  have hn : s.expectedLen = s.txLen.val := by rw [State.expectedLen, hm]
  simp only [State.verdict, hm, hn]
  exact (failMask_eq_zero _ _ _ _ _).mpr ⟨rfl, rfl, rfl, rfl, (failEcho_eq_false_iff _ _ _).mpr h⟩

/-- The buffer a run of bytes received from index 0 on leaves. -/
theorem received_rxbuf {s : State} (h : s.mbIdx = 0) (bs : List Byte) :
    (s.received bs).rxbuf = s.rxbuf.writeBytes 0 bs := by
  rw [State.received, h]
  rfl

/-- R181: the request received as its own echo passes the check. -/
theorem verdict_received_echo {s : State} (hm : s.mbVmode = .echo) (hidx : s.mbIdx = 0) {bs : List Byte}
    (hlen : bs.length = s.txLen.val) (htx : s.txbuf.readBytes bs.length = bs) (os : List Output) :
    ((s.received bs).appendOut os).verdict = 0 := by
  refine verdict_echo_eq_zero hm ?_
  show (s.received bs).rxbuf.readBytes s.txLen.val = s.txbuf.readBytes s.txLen.val
  rw [received_rxbuf hidx, ← hlen, Memory.readBytes_writeBytes, htx]

/-- R97, R181, R185 (b): a buffer of any length fed back to a collector freshly armed in ECHO mode completes valid. -/
theorem feedBytes_echo {s : State} (h : s.Listening) (hm : s.mbVmode = .echo) (hidx : s.mbIdx = 0) {b : Byte}
    {bs : List Byte} (hlen : (b :: bs).length = s.txLen.val) (htx : s.txbuf.readBytes (b :: bs).length = b :: bs) :
    ∃ t, feedBytes (b :: bs) s = .next t ∧ SamePay s t ∧
      Effect s t collectorRegs { s.flags with mbOut := false, mbDone := true, mbValid := true }
        (List.replicate bs.length .none ++ [.mbresult true 0]) ∧
      t.mbFail = 0 ∧ t.mbIdx = BitVec.ofNat 9 (b :: bs).length ∧ t.mbCrc = s.mbCrc ∧
      ∀ j, t.rxbuf.read j = if j < (b :: bs).length then (b :: bs).getD j 0 else s.rxbuf.read j := by
  have hn : s.mbIdx.toNat + (bs.length + 1) = s.expectedLen := by
    rw [State.expectedLen, hm, hidx, ← hlen, List.length_cons]
    exact Nat.zero_add _
  have hverdict := verdict_received_echo hm hidx hlen htx (List.replicate bs.length .none)
  refine ⟨_, feedBytes_completes h b bs hn, fun _ => rfl, ⟨OnlyCollectorChanged.regs rfl, ?_, rfl, rfl, ?_⟩,
    hverdict, ?_, State.crcAfter_echo hm _, fun j => ?_⟩
  · simp only [State.flags, State.complete_mbValid, hverdict]
    rfl
  · rw [State.complete_out, hverdict, State.appendOut_out, List.append_assoc]
    rfl
  · show s.mbIdx + BitVec.ofNat 9 (b :: bs).length = _
    rw [hidx, BitVec.ofNat_eq_ofNat, BitVec.zero_add]
  · show (s.received (b :: bs)).rxbuf.read j = _
    rw [received_rxbuf hidx, Memory.read_writeBytes, Nat.zero_add, Nat.sub_zero]
    simp only [Nat.zero_le, true_and]

end Sys2Proof.Machine
end

section
/-! SUPPORT. A telemetry frame at the decoder in its seek state (R143 to R149): the state after each part of it, and the words of
the frame it emits. -/

namespace Sys2Proof.Machine

/-- R141: resynchronizing changes nothing in the seek state. -/
theorem State.Seeking.cfdResync_eq {s : State} (h : s.Seeking) : s.cfdResync = s := by
  obtain ⟨hst, hidx, hsum, hlen, hckh⟩ := h
  cases s
  simp only at hst hidx hsum hlen hckh
  rw [hst, hidx, hsum, hlen, hckh]
  rfl

/-- R91: the low bytes of the two admissible length fields. -/
def AdmissibleLen (lenLo : Byte) : Prop := lenLo = 0x14 ∨ lenLo = 0x1C

theorem AdmissibleLen.toNat {lenLo : Byte} (h : AdmissibleLen lenLo) : lenLo.toNat = 20 ∨ lenLo.toNat = 28 :=
  h.imp (congrArg BitVec.toNat) (congrArg BitVec.toNat)

theorem AdmissibleLen.field {lenLo : Byte} (h : AdmissibleLen lenLo) :
    (lenLo.toNat == LEN_A || lenLo.toNat == LEN_B) = true := by
  simpa using h.toNat

theorem cat16_zero_toNat (b : Byte) : (cat16 0x00 b).toNat = b.toNat :=
  (cat16_toNat 0x00 b).trans (by simp)

/-- R144 to R147: inside a frame, its header and the payload bytes `q` taken. -/
def State.inFrame (s : State) (lenLo : Byte) (q : List Byte) : State :=
  { s with
    out := s.out ++ List.replicate (q.length + 4) .none
    cfdSt := if q.length + 2 = lenLo.toNat then .readChecksumHi else .readPayload
    cfdIdx := BitVec.ofNat 5 (q.length + 4)
    cfdSum := sum16 ([HDR0, HDR1, 0x00, lenLo] ++ q)
    cfdLen := cat16 0x00 lenLo
    pay := s.pay.writeBytes 0 q }

section
variable {s : State} {lenLo : Byte}

/-- R142: the first of a run of bytes, routed to CFD. -/
theorem feedBytes_telemetry (s : State) {b : Byte} {bs : List Byte} (hsel : s.rxsel = false)
    (hpos : s.cfdPositionOk = true) :
    feedBytes (b :: bs) s = feedBytes bs (cfdByte b s) := by
  rw [feedBytes_cons, execRx_telemetry b hsel hpos, andThen_next]

/-- R146: a low length byte that makes the field admissible. -/
theorem rxReadLenLo_admissible (hlen : AdmissibleLen lenLo) (hhi : hi8 s.cfdLen = 0x00) :
    rxReadLenLo lenLo s = { s with
      cfdSum := sumStep s.cfdSum lenLo, cfdLen := cat16 0x00 lenLo, cfdIdx := 4, cfdSt := .readPayload }.emit .none := by
  have hfield : (cat16 0x00 lenLo).toNat = LEN_A ∨ (cat16 0x00 lenLo).toNat = LEN_B := by
    rw [cat16_zero_toNat]
    exact hlen.toNat
  simp only [rxReadLenLo, hhi]
  exact if_pos hfield

/-- R143 to R146: the header of a frame, from the seek state as R141 leaves it. -/
theorem feedBytes_header_cfdResync (hsel : s.rxsel = false) (hlen : AdmissibleLen lenLo) :
    feedBytes [HDR0, HDR1, 0x00, lenLo] s.cfdResync = .next (s.cfdResync.inFrame lenLo []) := by
  have hbytes : feedBytes [HDR0, HDR1, 0x00, lenLo] s.cfdResync =
      .next (rxReadLenLo lenLo (cfdByte 0x00 (cfdByte HDR1 (cfdByte HDR0 s.cfdResync)))) := by
    rw [feedBytes_telemetry s.cfdResync hsel rfl, feedBytes_telemetry (cfdByte HDR0 s.cfdResync) hsel rfl,
      feedBytes_telemetry (cfdByte HDR1 (cfdByte HDR0 s.cfdResync)) hsel rfl, feedBytes_singleton]
    exact execRx_telemetry lenLo hsel rfl
  have hhi : hi8 (cfdByte 0x00 (cfdByte HDR1 (cfdByte HDR0 s.cfdResync))).cfdLen = 0x00 := hi8_cat16 0x00 0x00
  have hst : ([] : List Byte).length + 2 ≠ lenLo.toNat := by
    rw [List.length_nil]; obtain h | h := hlen.toNat <;> omega
  have hout : s.out ++ List.replicate (([] : List Byte).length + 4) Output.none =
      s.out ++ [Output.none] ++ [Output.none] ++ [Output.none] ++ [Output.none] := by
    simp only [List.append_assoc]
    rfl
  rw [hbytes, rxReadLenLo_admissible hlen hhi, State.inFrame, if_neg hst, State.cfdResync_out, hout]
  rfl

/-- R143 to R146. -/
theorem feedBytes_header (hsel : s.rxsel = false) (hseek : s.Seeking) (hlen : AdmissibleLen lenLo) :
    feedBytes [HDR0, HDR1, 0x00, lenLo] s = .next (s.inFrame lenLo []) := by
  simpa only [hseek.cfdResync_eq] using feedBytes_header_cfdResync hsel hlen

theorem cfdLen_inFrame (q : List Byte) : (s.inFrame lenLo q).cfdLen.toNat = lenLo.toNat :=
  cat16_zero_toNat lenLo

theorem cfdIdx_inFrame {q : List Byte} (hlen : AdmissibleLen lenLo) (hq : q.length + 2 ≤ lenLo.toNat) :
    (s.inFrame lenLo q).cfdIdx.toNat = q.length + 4 := by
  have h := hlen.toNat
  exact (BitVec.toNat_ofNat _ _).trans (Nat.mod_eq_of_lt (by omega))

/-- R44: the positions inside a frame, up to its first checksum byte. -/
theorem cfdPositionOk_inFrame {q : List Byte} (hlen : AdmissibleLen lenLo) (hq : q.length + 2 ≤ lenLo.toNat) :
    (s.inFrame lenLo q).cfdPositionOk = true := by
  rw [State.cfdPositionOk, cfdIdx_inFrame hlen hq, cfdLen_inFrame]
  by_cases hend : q.length + 2 = lenLo.toNat
  · have hst : (s.inFrame lenLo q).cfdSt = .readChecksumHi := if_pos hend
    rw [hst, positionOk, hlen.field, Bool.true_and, beq_iff_eq, ← hend]
  · have hst : (s.inFrame lenLo q).cfdSt = .readPayload := if_neg hend
    rw [hst, positionOk, hlen.field, Bool.true_and, Bool.and_eq_true, decide_eq_true_eq, decide_eq_true_eq]
    omega

/-- R147: a payload byte is stored, summed and counted, and the last one ends the payload. -/
theorem rxReadPayload_inFrame {q : List Byte} (b : Byte) (hlen : AdmissibleLen lenLo) (hq : q.length + 2 < lenLo.toNat) :
    rxReadPayload b (s.inFrame lenLo q) = s.inFrame lenLo (q ++ [b]) := by
  have hcount : (q ++ [b]).length + 4 = q.length + 4 + 1 := by
    rw [List.length_append, List.length_singleton, Nat.add_right_comm]
  have hout : s.out ++ List.replicate (q.length + 4 + 1) Output.none =
      s.out ++ List.replicate (q.length + 4) Output.none ++ [Output.none] := by
    rw [List.append_assoc, ← List.replicate_succ']
  have hpay : s.pay.writeBytes 0 (q ++ [b]) = (s.pay.writeBytes 0 q).write (q.length + 4 - 4) b := by
    rw [Memory.writeBytes_concat, Nat.zero_add, Nat.add_sub_cancel]
  have hsum : sum16 ([HDR0, HDR1, 0x00, lenLo] ++ (q ++ [b])) = sumStep (sum16 ([HDR0, HDR1, 0x00, lenLo] ++ q)) b := by
    rw [← List.append_assoc, sum16_concat]
  have hnext : BitVec.ofNat 5 (q.length + 4 + 1) = BitVec.ofNat 5 (q.length + 4) + 1 := BitVec.ofNat_add _ _
  have hend : (q ++ [b]).length + 2 = lenLo.toNat ↔ q.length + 4 + 1 = lenLo.toNat + 2 := by
    rw [List.length_append, List.length_singleton]; omega
  simp only [rxReadPayload, cfdIdx_inFrame hlen hq.le, cfdLen_inFrame]
  simp only [State.inFrame, hcount, hout, hpay, hsum, hnext, hend]
  rfl

/-- R147. -/
theorem execRx_inFrame {q : List Byte} (b : Byte) (hsel : s.rxsel = false) (hlen : AdmissibleLen lenLo)
    (hq : q.length + 2 < lenLo.toNat) : execRx b (s.inFrame lenLo q) = .next (s.inFrame lenLo (q ++ [b])) := by
  have hst : (s.inFrame lenLo q).cfdSt = .readPayload := if_neg hq.ne
  rw [execRx_telemetry (s := s.inFrame lenLo q) b hsel (cfdPositionOk_inFrame hlen hq.le), cfdByte, hst]
  exact congrArg Host.Outcome.next (rxReadPayload_inFrame b hlen hq)

/-- R147: the payload. -/
theorem feedBytes_payload {q : List Byte} (p : List Byte) (hsel : s.rxsel = false) (hlen : AdmissibleLen lenLo)
    (hp : q.length + p.length + 2 ≤ lenLo.toNat) :
    feedBytes p (s.inFrame lenLo q) = .next (s.inFrame lenLo (q ++ p)) := by
  induction p generalizing q with
  | nil => rw [List.append_nil]; rfl
  | cons b p ih =>
    rw [List.length_cons] at hp
    rw [feedBytes_cons, execRx_inFrame b hsel hlen (by omega), andThen_next,
      ih (by rw [List.length_append, List.length_singleton]; omega), List.append_assoc, List.singleton_append]

/-- R44: the position of a frame's last byte. -/
theorem cfdPositionOk_rxReadChecksumHi {p : List Byte} (b : Byte) (hlen : AdmissibleLen lenLo)
    (hp : p.length + 2 = lenLo.toNat) : (rxReadChecksumHi b (s.inFrame lenLo p)).cfdPositionOk = true := by
  have hidx := cfdIdx_inFrame (s := s) hlen hp.le
  have hlt : (s.inFrame lenLo p).cfdIdx.toNat < 31 := by
    rw [hidx]; obtain h | h := hlen.toNat <;> omega
  show positionOk .readChecksumLo ((s.inFrame lenLo p).cfdIdx + 1).toNat (s.inFrame lenLo p).cfdLen.toNat = true
  rw [cfdIdx_succ_toNat hlt, hidx, cfdLen_inFrame, positionOk, hlen.field, Bool.true_and, beq_iff_eq, ← hp]

/-- R143 to R149: a whole frame in the seek state, whatever its checksum. -/
theorem feedBytes_telemetryBytes {p : List Byte} (c : Half) (hsel : s.rxsel = false) (hseek : s.Seeking)
    (hlen : AdmissibleLen lenLo) (hp : p.length + 2 = lenLo.toNat) :
    feedBytes (telemetryBytes lenLo p c) s =
      .next (rxReadChecksumLo (lo8 c) (rxReadChecksumHi (hi8 c) (s.inFrame lenLo p))) := by
  have hst : (s.inFrame lenLo p).cfdSt = .readChecksumHi := if_pos hp
  have hfirst : cfdByte (hi8 c) (s.inFrame lenLo p) = rxReadChecksumHi (hi8 c) (s.inFrame lenLo p) := by
    rw [cfdByte, hst]
  rw [telemetryBytes, feedBytes_append, feedBytes_append, feedBytes_header hsel hseek hlen, andThen_next,
    feedBytes_payload p hsel hlen (by rw [List.length_nil]; omega), List.nil_append, andThen_next,
    feedBytes_telemetry (s.inFrame lenLo p) hsel (cfdPositionOk_inFrame hlen hp.le), hfirst, feedBytes_singleton]
  exact execRx_telemetry _ hsel (cfdPositionOk_rxReadChecksumHi (hi8 c) hlen hp)

/-- R149, R154: a frame with the right checksum is emitted. -/
theorem feedBytes_validFrame {p : List Byte} (hsel : s.rxsel = false) (hseek : s.Seeking) (hlen : AdmissibleLen lenLo)
    (hp : p.length + 2 = lenLo.toNat) :
    feedBytes (telemetryBytes lenLo p (sum16 ([HDR0, HDR1, 0x00, lenLo] ++ p))) s =
      .next (emitFrame (rxReadChecksumHi (hi8 (sum16 ([HDR0, HDR1, 0x00, lenLo] ++ p))) (s.inFrame lenLo p))) := by
  rw [feedBytes_telemetryBytes _ hsel hseek hlen hp, rxReadChecksumLo, if_pos ⟨rfl, rfl⟩]

/-- R149: the latched frame reads as the payload. -/
theorem emitFrame_frmData_read (t : State) {i : Nat} (h : i < PAY_CAP) (hi : i < t.cfdLen.toNat - 2) :
    (emitFrame t).frmData.read i = t.pay.read i := by
  show (t.frmData.writeBytes 0 (latchedBytes t)).read i = _
  rw [Memory.read_writeBytes, length_latchedBytes, if_pos ⟨Nat.zero_le _, by omega⟩, Nat.sub_zero, latchedBytes_getD,
    if_pos ⟨h, hi⟩]

/-- R99, R158: the words of an emitted frame are its payload in big-endian pairs. -/
theorem payloadWords_emitFrame {t : State} {p : List Byte} {n : Nat} (hlen : t.cfdLen.toNat = 2 * n + 2)
    (hn : 2 * n ≤ PAY_CAP) (hpay : ∀ i < 2 * n, t.pay.read i = p.getD i 0) :
    (emitFrame t).payloadWords.map BitVec.toNat =
      (List.range n).map fun k => (p.getD (2 * k) 0).toNat * 256 + (p.getD (2 * k + 1) 0).toNat := by
  have hread : ∀ i < 2 * n, (emitFrame t).frmData.read i = p.getD i 0 := fun i hi => by
    rw [emitFrame_frmData_read t (by omega) (by omega), hpay i hi]
  have hcount : ((emitFrame t).frmLen.toNat - 2) / 2 = n := by
    show (t.cfdLen.toNat - 2) / 2 = n
    omega
  rw [State.payloadWords, hcount, List.map_map]
  refine List.map_congr_left fun k hk => ?_
  have hk := List.mem_range.mp hk
  rw [Function.comp_apply, State.payloadWord, cat16_toNat, hread _ (by omega), hread _ (by omega)]

end

end Sys2Proof.Machine
end

section
/-! PROOFS. The wire frames as they arrive (R90, R93, log 7): the words of an emitted frame, and a request as its own echo. -/

namespace Sys2Proof.Machine

/-- R99, R154, R158: a valid frame of `n` words, in the seek state. -/
theorem payloadWords_of_validFrame {s : State} {lenLo : Byte} {p : List Byte} {n : Nat} (hsel : s.rxsel = false)
    (hseek : s.Seeking) (hlen : AdmissibleLen lenLo) (hn : lenLo.toNat = 2 * n + 2) (hp : p.length = 2 * n) :
    ∃ t, feedBytes (telemetryBytes lenLo p (sum16 ([HDR0, HDR1, 0x00, lenLo] ++ p))) s = .next t ∧
      t.payloadWords.map BitVec.toNat =
        (List.range n).map fun k => (p.getD (2 * k) 0).toNat * 256 + (p.getD (2 * k + 1) 0).toNat := by
  have h := hlen.toNat
  refine ⟨_, feedBytes_validFrame hsel hseek hlen (by omega), ?_⟩
  refine payloadWords_emitFrame ?_ (by simp only [PAY_CAP]; omega) fun i hi => ?_
  · exact (cfdLen_inFrame (s := s) p).trans hn
  · show (s.pay.writeBytes 0 p).read i = _
    rw [Memory.read_writeBytes, if_pos ⟨Nat.zero_le _, by omega⟩, Nat.sub_zero]

/-- Settles O16: a frame of 9 words and one of 13. -/
theorem payloadWordsAreBigEndian : Obligations.PayloadWordsAreBigEndian := by
  unfold Obligations.PayloadWordsAreBigEndian
  intro s p hsel hseek
  exact ⟨fun hp => payloadWords_of_validFrame (n := 9) hsel hseek (.inl rfl) rfl hp,
    fun hp => payloadWords_of_validFrame (n := 13) hsel hseek (.inr rfl) rfl hp⟩

/-- Settles O30: the row of each kind is its bytes arriving, and those are the request the collector compares with. -/
theorem echoOfTheRequestIsValid : Obligations.EchoOfTheRequestIsValid := by
  unfold Obligations.EchoOfTheRequestIsValid
  intro s reg val crc hsel hout hdone hm htxLen hidx p hp htx
  have hlegal : s.expectedLenLegal = true := by simp [State.expectedLenLegal, hm, htxLen]
  have hexec : exec p.1 s = feedBytes (requestBytes s.cfg.devAddr p.2 reg val crc) s := by
    simp only [List.mem_cons, List.not_mem_nil, or_false] at hp
    obtain rfl | rfl | rfl := hp <;> rfl
  rw [hexec]
  exact feedBytes_echo ⟨hsel, hout, hdone, hlegal⟩ hm hidx (by rw [htxLen]; rfl) htx

end Sys2Proof.Machine
end

section
/-! PROOFS. The integrity arithmetic (40_integrity): the eight shifts of CRC16, the appended CRC, and the bounds and the
blind spots of the sum. -/

namespace Sys2Proof.Machine

/-! The shifts of CRC16 (R121). -/

/-- R121: the bit that a shift tests is the parity of the register. -/
theorem crcShift_eq (c : Half) : crcShift c = if c.toNat % 2 = 1 then (c >>> 1) ^^^ 0xA001 else c >>> 1 := by
  have hbit : c.getLsbD 0 = decide (c.toNat % 2 = 1) := by rw [BitVec.getLsbD, Nat.testBit_zero]
  rw [crcShift, hbit]
  simp only [decide_eq_true_eq]

/-- R121: a shift halves an even register. -/
theorem crcShift_toNat_of_even {c : Half} {n : Nat} (h : c.toNat = 2 * n) : (crcShift c).toNat = n := by
  rw [crcShift_eq, if_neg (by omega), BitVec.toNat_ushiftRight, Nat.shiftRight_eq_div_pow]
  omega

/-- R121: `k` shifts of a multiple of `2^k` divide it by `2^k`, and the polynomial never enters. -/
theorem crcShift_iterate_toNat {c : Half} {n : Nat} (k : Nat) (h : c.toNat = 2 ^ k * n) :
    (crcShift^[k] c).toNat = n := by
  induction k generalizing c with
  | zero => rwa [Nat.pow_zero, Nat.one_mul] at h
  | succ k ih => exact ih (crcShift_toNat_of_even (by rw [h, Nat.pow_succ']; ring))

/-- R121: a byte enters the low half of the register, and eight shifts follow. -/
theorem crcStep_eq_iterate (c : Half) (b : Byte) : crcStep c b = crcShift^[8] (c ^^^ zext16 b) := rfl

/-- R121: a byte that clears the low half moves the high half down. -/
theorem crcStep_of_xor_eq_cat16 {c : Half} {b h : Byte} (hxor : c ^^^ zext16 b = cat16 h 0#8) : crcStep c b = zext16 h := by
  have hmul : (c ^^^ zext16 b).toNat = 2 ^ 8 * h.toNat := by
    rw [hxor, cat16_toNat, BitVec.toNat_ofNat]
    omega
  apply BitVec.eq_of_toNat_eq
  rw [crcStep_eq_iterate, crcShift_iterate_toNat 8 hmul, zext16, BitVec.toNat_setWidth_of_le (by decide)]

/-- Zero extension puts a zero byte above (R10). -/
theorem zext16_eq_cat16 (b : Byte) : zext16 b = cat16 0#8 b := by
  apply BitVec.eq_of_toNat_eq
  rw [cat16_toNat, zext16, BitVec.toNat_setWidth_of_le (by decide), BitVec.toNat_ofNat]
  omega

/-- The low half of a value cancels it in place. -/
theorem xor_zext16_lo8 (c : Half) : c ^^^ zext16 (lo8 c) = cat16 (hi8 c) 0#8 :=
  calc c ^^^ zext16 (lo8 c)
    _ = cat16 (hi8 c) (lo8 c) ^^^ cat16 0#8 (lo8 c) := by rw [cat16_hi8_lo8, zext16_eq_cat16]
    _ = cat16 (hi8 c ^^^ 0#8) (lo8 c ^^^ lo8 c) := BitVec.xor_append
    _ = cat16 (hi8 c) 0#8 := congrArg₂ cat16 BitVec.xor_zero BitVec.xor_self

/-- R126: the two bytes of a register's own value, low byte first, clear it. -/
theorem crcStep_lo8_hi8 (c : Half) : crcStep (crcStep c (lo8 c)) (hi8 c) = 0 := by
  rw [crcStep_of_xor_eq_cat16 (xor_zext16_lo8 c)]
  exact crcStep_of_xor_eq_cat16 (h := 0#8) BitVec.xor_self

/-- R124: the source's vector, with the value after each byte. -/
theorem crc16_prefixes_sourceVector :
    (List.range 7).map (fun k => crc16 ([0xFE, 0x04, 0x00, 0x03, 0x00, 0x01].take k)) =
      [0xFFFF, 0xC03E, 0x1340, 0xF012, 0x0C30, 0x140C, 0xC5D5] := by decide

/-- Settles O48: a byte is one `crcStep`, whose shifts are those of R121. -/
theorem crc16IsTheBitRecurrence : Obligations.Crc16IsTheBitRecurrence := by
  unfold Obligations.Crc16IsTheBitRecurrence
  refine ⟨rfl, fun m b => ?_, crc16_prefixes_sourceVector, rfl, rfl⟩
  simp only [← crcShift_eq]
  rw [crc16_concat, crcStep_eq_iterate, List.foldl_const, List.length_range, zext16]

/-- Settles O7: the two bytes appended are the halves of the register as the message leaves it. -/
theorem appendedCrcVanishes : Obligations.AppendedCrcVanishes := by
  unfold Obligations.AppendedCrcVanishes
  refine ⟨congrArg (·.getD 6 0) crc16_prefixes_sourceVector, fun m => ?_⟩
  rw [crc16_append, List.foldl_cons, List.foldl_cons, List.foldl_nil, crcStep_lo8_hi8]

/-! The sum (R125). -/

/-- A byte string's sum over the naturals is at most 255 a byte. -/
theorem sum_toNat_le (m : List Byte) : (m.map BitVec.toNat).sum ≤ m.length * 255 := by
  refine (List.sum_le_card_nsmul _ 255 fun x hx => ?_).trans_eq (by rw [List.length_map, smul_eq_mul])
  obtain ⟨b, -, rfl⟩ := List.mem_map.mp hx
  have := b.isLt
  omega

/-- R128: up to 257 bytes the sum does not wrap. -/
theorem sum16_toNat_of_length_le {m : List Byte} (h : m.length ≤ 257) : (sum16 m).toNat = (m.map BitVec.toNat).sum := by
  have := sum_toNat_le m
  rw [sum16_toNat]
  omega

/-- R128: the sum over a frame's header, length field and payload. -/
theorem sum16_frame_toNat (lenLo : Byte) {p : List Byte} (h : p.length ≤ 26) :
    (sum16 ([0x42, 0x4D, 0x00, lenLo] ++ p)).toNat = 0x8F + lenLo.toNat + (p.map BitVec.toNat).sum := by
  have hhead : ([0x42, 0x4D, 0x00, lenLo].map BitVec.toNat).sum = 0x8F + lenLo.toNat := by simp; omega
  have hlen : ([0x42, 0x4D, 0x00, lenLo] ++ p).length ≤ 257 := by simp; omega
  rw [sum16_toNat_of_length_le hlen, List.map_append, List.sum_append, hhead]

/-- R125: the sum does not depend on the order of the bytes. -/
theorem sum16_perm {m n : List Byte} (h : m.Perm n) : sum16 m = sum16 n := by
  apply BitVec.eq_of_toNat_eq
  rw [sum16_toNat, sum16_toNat, (h.map _).sum_eq]

/-- R125: a byte adds itself to the sum of the others, wherever it stands. -/
theorem sum16_middle (p r : List Byte) (b : Byte) : sum16 (p ++ b :: r) = sumStep (sum16 (p ++ r)) b := by
  rw [← sum16_concat]
  exact sum16_perm (List.perm_middle.trans (List.perm_append_singleton b (p ++ r)).symm)

/-- R129 (b): different bytes differ by less than the modulus. -/
theorem sumStep_injective (s : Half) : Function.Injective (sumStep s) := by
  intro x y h
  have hmod := congrArg BitVec.toNat h
  rw [sumStep_toNat, sumStep_toNat] at hmod
  apply BitVec.eq_of_toNat_eq
  have := x.isLt
  have := y.isLt
  omega

/-- Settles O8: at most 30 bytes are summed. -/
theorem admissibleSumsAreBounded : Obligations.AdmissibleSumsAreBounded := by
  unfold Obligations.AdmissibleSumsAreBounded
  intro p
  have hp := sum_toNat_le p
  constructor
  · intro hlen
    have hsum : _ = 0xA3 + _ := sum16_frame_toNat 0x14 (p := p) (by omega)
    exact ⟨hsum, by omega⟩
  · intro hlen
    have hsum : _ = 0xAB + _ := sum16_frame_toNat 0x1C (p := p) (by omega)
    exact ⟨hsum, by omega⟩

/-- Settles O9: the other bytes' sum is the same, and the changed byte is added to it; a swap is a permutation. -/
theorem sumDetectsOneByteNotSwaps : Obligations.SumDetectsOneByteNotSwaps := by
  unfold Obligations.SumDetectsOneByteNotSwaps
  constructor
  · intro m i x hi hne heq
    have hm : m = m.take i ++ m[i] :: m.drop (i + 1) := by rw [List.getElem_cons_drop, List.take_append_drop]
    rw [List.set_eq_take_append_cons_drop, if_pos hi, sum16_middle] at heq
    conv_rhs at heq => rw [hm, sum16_middle]
    exact hne (by rw [List.getElem?_eq_getElem hi, sumStep_injective _ heq])
  · intro p q r x y
    have hswap : ([x] ++ q ++ [y]).Perm ([y] ++ (q ++ [x])) :=
      List.perm_append_comm.trans (List.perm_append_comm.append_left [y])
    refine sum16_perm ?_
    simpa only [List.append_assoc] using (hswap.append_left p).append_right r

end Sys2Proof.Machine
end

section
/-! SUPPORT. What a byte to CFD leaves unchanged (R142 to R149): the effect of a move inside a frame, of a discard and of an
emission, and how these add up over a run of bytes. -/

namespace Sys2Proof.Machine

/-- More registers may be listed. -/
theorem Effect.mono {s t : State} {rs rs' : List RegNum} {f : Flags} {os : List Output} (h : Effect s t rs f os)
    (hsub : rs ⊆ rs') : Effect s t rs' f os :=
  { h with regs := fun r hstatus hrs => h.regs r hstatus fun hr => hrs (hsub hr) }

/-- One event after another. -/
theorem Effect.trans {s t u : State} {rs : List RegNum} {f g : Flags} {os os' : List Output} (h : Effect s t rs f os)
    (h' : Effect t u rs g os') : Effect s u rs g (os ++ os') where
  regs r hstatus hrs := (h'.regs r hstatus hrs).trans (h.regs r hstatus hrs)
  flags := h'.flags
  cfg := h'.cfg.trans h.cfg
  input := h'.input.trans h.input
  out := by rw [h'.out, h.out, List.append_assoc]

/-- R141: in the seek state the position registers read 0. -/
theorem State.Seeking.hostRead_eq_zero {s : State} (h : s.Seeking) {r : RegNum} (hr : r ∈ positionRegs) :
    hostRead s r = 0 := by
  rw [← h.cfdResync_eq]
  simp only [positionRegs, List.mem_cons, List.not_mem_nil, or_false] at hr
  obtain rfl | rfl | rfl | rfl | rfl := hr <;> rfl

/-- R141: from the seek state to the seek state, the position registers are as before. -/
theorem Effect.between_seeking {s t : State} {rs : List RegNum} {f : Flags} {os : List Output}
    (h : Effect s t (positionRegs ++ rs) f os) (hs : s.Seeking) (ht : t.Seeking) : Effect s t rs f os := by
  refine { h with regs := fun r hstatus hrs => ?_ }
  by_cases hr : r ∈ positionRegs
  · rw [ht.hostRead_eq_zero hr, hs.hostRead_eq_zero hr]
  · exact h.regs r hstatus fun hmem => (List.mem_append.mp hmem).elim hr hrs

/-- A byte that changes nothing (R143). -/
theorem effect_emit (s : State) (o : Output) : Effect s (s.emit o) [] s.flags [o] :=
  ⟨fun r _ _ => hostRead_appendOut s [o] r, rfl, rfl, rfl, rfl⟩

/-- R27 to R32: where only CFD's position and PAY move, the position registers that keep their values need not be listed. -/
theorem effect_position (s : State) {rs : List RegNum} (os : List Output) (st : CfdSt) (idx : BitVec 5) (sum len : Half)
    (ckh : Byte) (pay : Memory) (hsum : 0x006 ∈ rs ∨ sum = s.cfdSum) (hlen : 0x007 ∈ rs ∨ len = s.cfdLen)
    (hckh : 0x008 ∈ rs ∨ ckh = s.cfdCkh) (hst : 0x004 ∈ rs := by decide) (hidx : 0x005 ∈ rs := by decide) :
    Effect s { s with out := s.out ++ os, cfdSt := st, cfdIdx := idx, cfdSum := sum, cfdLen := len, cfdCkh := ckh, pay := pay }
      rs s.flags os := by
  refine ⟨regs_same_of fun g _ hstatus hrs => ?_, rfl, rfl, rfl, rfl⟩
  cases g with
  | status => exact absurd rfl hstatus
  | cfdSt => exact absurd hst hrs
  | cfdIdx => exact absurd hidx hrs
  | cfdSum => exact hsum.resolve_left hrs
  | cfdLen => exact hlen.resolve_left hrs
  | cfdCkh => exact congrArg zext16 (hckh.resolve_left hrs)
  | _ => rfl

/-- R252: a discard touches the position and the two diagnostics. -/
theorem effect_raiseDiscard (s : State) (c : DiscCause) :
    Effect s ((s.raiseDiscard c).emit .none) (positionRegs ++ discardRegs) s.flags [.none] := by
  refine ⟨regs_same_of fun g _ hstatus hrs => ?_, rfl, rfl, rfl, rfl⟩
  cases g with
  | status => exact absurd rfl hstatus
  | cfdSt | cfdIdx | cfdSum | cfdLen | cfdCkh | discCnt | discCause => exact absurd (by decide) hrs
  | _ => rfl

/-- R149: emission touches the position, the latched frame and its flags. -/
theorem effect_emitFrame (s : State) :
    Effect s (emitFrame s) (positionRegs ++ 0x00B :: frmDataRegs)
      { s.flags with frmValid := true, frmOvr := s.frmOvr || s.frmValid }
      [.frame s.cfdLen (s.pay.readBytes (s.cfdLen.toNat - 2))] := by
  refine ⟨regs_same_of fun g hin hstatus hrs => ?_, rfl, rfl, rfl, rfl⟩
  cases g with
  | status => exact absurd rfl hstatus
  | cfdSt | cfdIdx | cfdSum | cfdLen | cfdCkh | frmLen => exact absurd (by decide) hrs
  | frmData i =>
    have := mem_frmDataRegs (of_decide_eq_true hin)
    exact absurd (List.mem_append_right _ (List.mem_cons_of_mem _ this)) hrs
  | _ => rfl

theorem seeking_raiseDiscard (s : State) (c : DiscCause) : ((s.raiseDiscard c).emit .none).Seeking :=
  ⟨rfl, rfl, rfl, rfl, rfl⟩

theorem seeking_emitFrame (s : State) : (emitFrame s).Seeking := ⟨rfl, rfl, rfl, rfl, rfl⟩

/-- R149, R33: the whole of the latched frame, the zeros behind the payload included. -/
theorem emitFrame_frmData (s : State) {i : Nat} (hi : i < 26) :
    (emitFrame s).frmData.read i = if i < s.cfdLen.toNat - 2 then s.pay.read i else 0x00 := by
  show (s.frmData.writeBytes 0 (latchedBytes s)).read i = _
  rw [Memory.read_writeBytes, length_latchedBytes, if_pos ⟨Nat.zero_le _, by omega⟩, Nat.sub_zero, latchedBytes_getD]
  simp only [PAY_CAP, hi, true_and]

/-- R127: two bytes are the halves of a 16-bit value exactly where their number is its number. -/
theorem eq_halves_iff (h l : Byte) (v : Half) : h = hi8 v ∧ l = lo8 v ↔ h.toNat * 256 + l.toNat = v.toNat := by
  rw [← cat16_toNat, BitVec.toNat_inj]
  constructor
  · rintro ⟨rfl, rfl⟩
    exact cat16_hi8_lo8 v
  · rintro rfl
    exact ⟨(hi8_cat16 h l).symm, (lo8_cat16 h l).symm⟩

end Sys2Proof.Machine
end

section
/-! PROOFS. What a byte does in each state of CFD (R142 to R150, R252). -/

namespace Sys2Proof.Machine

/-- R142: a byte at a position of the table takes the rule `CFD_ST` chooses. -/
theorem exec_rx_cfdByte {s : State} (b : Byte) (hsel : s.rxsel = false) (hpos : s.cfdPositionOk = true) :
    exec (.rx b) s = .next (cfdByte b s) := execRx_telemetry b hsel hpos

/-- Settles O10: the sentinel moves the position; another byte changes nothing in S0 and is a discard in S1. -/
theorem headerBytes : Obligations.HeaderBytes := by
  unfold Obligations.HeaderBytes
  intro s b hsel hpos
  constructor
  · intro hst
    have hexec : exec (.rx b) s = .next (rxSeekHeader0 b s) := by rw [exec_rx_cfdByte b hsel hpos, cfdByte, hst]
    refine ⟨_, hexec, ?_⟩
    unfold rxSeekHeader0
    by_cases hb : b = 0x42
    · rw [if_pos hb, if_pos hb]
      exact ⟨fun _ => rfl,
        effect_position s _ _ _ _ _ _ _ (.inl (by decide)) (.inr rfl) (.inr rfl), rfl, rfl, rfl⟩
    · rw [if_neg hb, if_neg hb]
      exact ⟨fun _ => rfl, effect_emit s .none⟩
  · intro hst
    have hexec : exec (.rx b) s = .next (rxSeekHeader1 b s) := by rw [exec_rx_cfdByte b hsel hpos, cfdByte, hst]
    refine ⟨_, hexec, ?_⟩
    unfold rxSeekHeader1
    by_cases hb : b = 0x4D
    · rw [if_pos hb, if_pos hb]
      refine ⟨fun _ => rfl,
        effect_position s _ _ _ _ _ _ _ (.inl (by decide)) (.inr rfl) (.inr rfl), rfl, rfl, ?_⟩
      subst hb
      exact sumStep_toNat s.cfdSum 0x4D
    · rw [if_neg hb, if_neg hb]
      exact ⟨fun _ => rfl, effect_raiseDiscard s .badHeader1, seeking_raiseDiscard s .badHeader1, satInc_toNat _, rfl⟩

/-- R146: the length field a low byte makes. -/
theorem lenField_toNat (len : Half) (b : Byte) : (cat16 (hi8 len) b).toNat = len.toNat / 256 * 256 + b.toNat := by
  rw [cat16_toNat, hi8_toNat]

/-- Settles O11: the high byte is kept; the low byte completes an admissible field, or is a discard. -/
theorem lengthBytes : Obligations.LengthBytes := by
  unfold Obligations.LengthBytes
  intro s b hsel hpos
  constructor
  · intro hst
    have hexec : exec (.rx b) s = .next (rxReadLenHi b s) := by rw [exec_rx_cfdByte b hsel hpos, cfdByte, hst]
    exact ⟨_, hexec, fun _ => rfl,
      effect_position s _ _ _ _ _ _ _ (.inl (by decide)) (.inl (by decide)) (.inr rfl), rfl, rfl,
      (cat16_toNat b 0x00).trans (Nat.add_zero _), sumStep_toNat s.cfdSum b⟩
  · intro hst
    have hexec : exec (.rx b) s = .next (rxReadLenLo b s) := by rw [exec_rx_cfdByte b hsel hpos, cfdByte, hst]
    refine ⟨_, hexec, ?_⟩
    simp only [rxReadLenLo, lenField_toNat]
    by_cases hlen : s.cfdLen.toNat / 256 * 256 + b.toNat = 20 ∨ s.cfdLen.toNat / 256 * 256 + b.toNat = 28
    · rw [if_pos hlen, if_pos hlen]
      exact ⟨fun _ => rfl,
        effect_position s _ _ _ _ _ _ _ (.inl (by decide)) (.inl (by decide)) (.inr rfl), rfl, rfl,
        lenField_toNat s.cfdLen b, sumStep_toNat s.cfdSum b⟩
    · rw [if_neg hlen, if_neg hlen]
      exact ⟨fun _ => rfl, effect_raiseDiscard s .badLength, seeking_raiseDiscard s .badLength, satInc_toNat _, rfl⟩

/-- R44: the table's row for S4. -/
theorem readPayload_row {s : State} (hpos : s.cfdPositionOk = true) (hst : s.cfdSt = .readPayload) :
    (s.cfdLen.toNat = 20 ∨ s.cfdLen.toNat = 28) ∧ 4 ≤ s.cfdIdx.toNat ∧ s.cfdIdx.toNat ≤ s.cfdLen.toNat + 1 := by
  simpa [State.cfdPositionOk, hst, positionOk] using hpos

/-- R44: the table's row for S5. -/
theorem readChecksumHi_row {s : State} (hpos : s.cfdPositionOk = true) (hst : s.cfdSt = .readChecksumHi) :
    (s.cfdLen.toNat = 20 ∨ s.cfdLen.toNat = 28) ∧ s.cfdIdx.toNat = s.cfdLen.toNat + 2 := by
  simpa [State.cfdPositionOk, hst, positionOk] using hpos

/-- R28: counting a byte in S4 or S5 does not wrap. -/
theorem cfdIdx_succ_of_position {s : State} (hpos : s.cfdPositionOk = true)
    (hst : s.cfdSt = .readPayload ∨ s.cfdSt = .readChecksumHi) : (s.cfdIdx + 1).toNat = s.cfdIdx.toNat + 1 := by
  refine cfdIdx_succ_toNat ?_
  obtain hst | hst := hst
  · have := readPayload_row hpos hst
    omega
  · have := readChecksumHi_row hpos hst
    omega

/-- Settles O12: the byte is written where CFD_IDX says, and the position moves on by one. -/
theorem payloadByte : Obligations.PayloadByte := by
  unfold Obligations.PayloadByte
  intro s b hsel hpos hst
  have hexec : exec (.rx b) s = .next (rxReadPayload b s) := by rw [exec_rx_cfdByte b hsel hpos, cfdByte, hst]
  exact ⟨_, hexec,
    effect_position s _ _ _ _ _ _ _ (.inl (by decide)) (.inr rfl) (.inr rfl),
    fun j => Memory.read_write _ _ j b, sumStep_toNat s.cfdSum b, cfdIdx_succ_of_position hpos (.inl hst), rfl⟩

/-- Settles O13: S5 keeps the byte; in S6 the match of both bytes is that of the 16-bit numbers. -/
theorem checksumBytes : Obligations.ChecksumBytes := by
  unfold Obligations.ChecksumBytes
  intro s b hsel hpos
  constructor
  · intro hst
    have hexec : exec (.rx b) s = .next (rxReadChecksumHi b s) := by rw [exec_rx_cfdByte b hsel hpos, cfdByte, hst]
    exact ⟨_, hexec, fun _ => rfl,
      effect_position s _ _ _ _ _ _ _ (.inr rfl) (.inr rfl) (.inl (by decide)), rfl, rfl,
      cfdIdx_succ_of_position hpos (.inr hst)⟩
  · intro hst
    have hexec : exec (.rx b) s = .next (rxReadChecksumLo b s) := by rw [exec_rx_cfdByte b hsel hpos, cfdByte, hst]
    refine ⟨_, hexec, ?_⟩
    simp only [rxReadChecksumLo, eq_halves_iff]
    by_cases hsum : s.cfdCkh.toNat * 256 + b.toNat = s.cfdSum.toNat
    · rw [if_pos hsum, if_pos hsum]
      exact ⟨fun _ => rfl, seeking_emitFrame s, effect_emitFrame s, rfl, fun i hi => emitFrame_frmData s hi⟩
    · rw [if_neg hsum, if_neg hsum]
      exact ⟨fun _ => rfl, seeking_raiseDiscard s .badChecksum, effect_raiseDiscard s .badChecksum, satInc_toNat _, rfl⟩

/-- Everything a byte to CFD can do (R142 to R149): move the position and PAY, discard, or emit a frame. -/
theorem cfdByte_cases (b : Byte) (s : State) :
    (∃ st idx sum len ckh pay, cfdByte b s = { s with
      cfdSt := st, cfdIdx := idx, cfdSum := sum, cfdLen := len, cfdCkh := ckh, pay := pay }.emit .none) ∨
    (∃ c, c ≠ .none ∧ cfdByte b s = (s.raiseDiscard c).emit .none) ∨ cfdByte b s = emitFrame s := by
  unfold cfdByte
  split
  · unfold rxSeekHeader0
    split <;> exact .inl ⟨_, _, _, _, _, _, rfl⟩
  · unfold rxSeekHeader1
    split
    · exact .inl ⟨_, _, _, _, _, _, rfl⟩
    · exact .inr (.inl ⟨.badHeader1, nofun, rfl⟩)
  · exact .inl ⟨_, _, _, _, _, _, rfl⟩
  · dsimp only [rxReadLenLo]
    split
    · exact .inl ⟨_, _, _, _, _, _, rfl⟩
    · exact .inr (.inl ⟨.badLength, nofun, rfl⟩)
  · exact .inl ⟨_, _, _, _, _, _, rfl⟩
  · exact .inl ⟨_, _, _, _, _, _, rfl⟩
  · unfold rxReadChecksumLo
    split
    · exact .inr (.inr rfl)
    · exact .inr (.inl ⟨.badChecksum, nofun, rfl⟩)

/-- Settles O21: a move leaves the diagnostics alone, a discard counts once and seeks, an emission has another output. -/
theorem malformedInputLeavesOnlyDiagnostics : Obligations.MalformedInputLeavesOnlyDiagnostics := by
  unfold Obligations.MalformedInputLeavesOnlyDiagnostics
  intro s b hsel hpos
  rw [exec_rx_cfdByte b hsel hpos]
  obtain ⟨st, idx, sum, len, ckh, pay, h⟩ | ⟨c, hc, h⟩ | h := cfdByte_cases b s <;> rw [h]
  · exact ⟨_, .none, rfl, rfl, fun _ => ⟨effect_position s _ st idx sum len ckh pay (.inl (by decide))
      (.inl (by decide)) (.inl (by decide)), .inl ⟨rfl, rfl⟩⟩⟩
  · exact ⟨_, .none, rfl, rfl, fun _ =>
      ⟨effect_raiseDiscard s c, .inr ⟨seeking_raiseDiscard s c, satInc_toNat _, hc⟩⟩⟩
  · exact ⟨_, _, rfl, rfl, nofun⟩

end Sys2Proof.Machine
end

section
/-! PROOFS. Every frame in progress ends within 31 bytes (R156). -/

namespace Sys2Proof.Machine

/-- R44: a frame is in progress, and bytes go to CFD. -/
structure State.MidFrame (s : State) : Prop where
  sel : s.rxsel = false
  position : s.cfdPositionOk = true
  left : s.cfdSt ≠ .seekHeader0

/-- R44: a payload byte leads to the next position of S4, the last one to S5. -/
theorem midFrame_rxReadPayload {s : State} (b : Byte) (hsel : s.rxsel = false) (hpos : s.cfdPositionOk = true)
    (hst : s.cfdSt = .readPayload) : (rxReadPayload b s).MidFrame := by
  obtain ⟨hlen, hlo, hhi⟩ := readPayload_row hpos hst
  have hidx : (rxReadPayload b s).cfdIdx.toNat = s.cfdIdx.toNat + 1 := cfdIdx_succ_of_position hpos (.inl hst)
  have hlen' : (rxReadPayload b s).cfdLen.toNat = s.cfdLen.toNat := rfl
  have hfield : (s.cfdLen.toNat == LEN_A || s.cfdLen.toNat == LEN_B) = true := by simpa using hlen
  by_cases hlast : s.cfdIdx.toNat + 1 = s.cfdLen.toNat + 2
  · have hnext : (rxReadPayload b s).cfdSt = .readChecksumHi := if_pos hlast
    refine ⟨hsel, ?_, by rw [hnext]; nofun⟩
    rw [State.cfdPositionOk, hnext, hidx, hlen', hlast, positionOk, hfield, beq_self_eq_true, Bool.and_self]
  · have hnext : (rxReadPayload b s).cfdSt = .readPayload := if_neg hlast
    refine ⟨hsel, ?_, by rw [hnext]; nofun⟩
    rw [State.cfdPositionOk, hnext, hidx, hlen', positionOk, hfield, Bool.true_and, Bool.and_eq_true,
      decide_eq_true_eq, decide_eq_true_eq]
    omega

/-- R156: a byte inside a frame is counted, or ends the frame in the seek state. -/
theorem cfdByte_progress {s : State} (b : Byte) (h : s.MidFrame) :
    (cfdByte b s).Seeking ∨ ((cfdByte b s).MidFrame ∧ (cfdByte b s).cfdIdx.toNat = s.cfdIdx.toNat + 1) := by
  obtain ⟨hsel, hpos, hleft⟩ := h
  rw [cfdByte]
  cases hst : s.cfdSt with
  | seekHeader0 => exact absurd hst hleft
  | seekHeader1 =>
    obtain ⟨hidx, hlen⟩ : s.cfdIdx.toNat = 1 ∧ s.cfdLen.toNat = 0 := by
      simpa [State.cfdPositionOk, hst, positionOk] using hpos
    dsimp only
    unfold rxSeekHeader1
    split
    · exact .inr ⟨⟨hsel, by simp [State.cfdPositionOk, positionOk, hlen], nofun⟩, by rw [hidx]; rfl⟩
    · exact .inl (seeking_raiseDiscard s _)
  | readLenHi =>
    obtain ⟨hidx, -⟩ : s.cfdIdx.toNat = 2 ∧ s.cfdLen.toNat = 0 := by
      simpa [State.cfdPositionOk, hst, positionOk] using hpos
    exact .inr ⟨⟨hsel, by simp [rxReadLenHi, State.cfdPositionOk, positionOk, cat16_toNat], nofun⟩, by rw [hidx]; rfl⟩
  | readLenLo =>
    obtain ⟨hidx, -⟩ : s.cfdIdx.toNat = 3 ∧ s.cfdLen.toNat % 256 = 0 := by
      simpa [State.cfdPositionOk, hst, positionOk] using hpos
    dsimp only [rxReadLenLo]
    split
    · next hlen =>
      refine .inr ⟨⟨hsel, ?_, nofun⟩, by rw [hidx]; rfl⟩
      obtain hlen | hlen := hlen <;> simp [State.cfdPositionOk, positionOk, hlen]
    · exact .inl (seeking_raiseDiscard s _)
  | readPayload =>
    exact .inr ⟨midFrame_rxReadPayload b hsel hpos hst, cfdIdx_succ_of_position hpos (.inl hst)⟩
  | readChecksumHi =>
    obtain ⟨hlen, hrow⟩ := readChecksumHi_row hpos hst
    have hidx := cfdIdx_succ_of_position hpos (.inr hst)
    refine .inr ⟨⟨hsel, ?_, nofun⟩, hidx⟩
    show positionOk .readChecksumLo (s.cfdIdx + 1).toNat s.cfdLen.toNat = true
    rw [hidx, hrow]
    simpa only [positionOk, beq_self_eq_true, Bool.and_true, Bool.or_eq_true, beq_iff_eq] using hlen
  | readChecksumLo =>
    dsimp only
    unfold rxReadChecksumLo
    split
    · exact .inl (seeking_emitFrame s)
    · exact .inl (seeking_raiseDiscard s _)

/-- R156: CFD_IDX has 5 bits, so a frame in progress ends before it would wrap. -/
theorem feedBytes_reaches_seek {s : State} (h : s.MidFrame) (bs : List Byte) (hlen : 32 ≤ s.cfdIdx.toNat + bs.length) :
    ∃ k, 1 ≤ k ∧ k ≤ bs.length ∧ ∃ t, feedBytes (bs.take k) s = .next t ∧ t.Seeking := by
  induction bs generalizing s with
  | nil =>
    have := s.cfdIdx.isLt
    rw [List.length_nil] at hlen
    omega
  | cons b bs ih =>
    rw [List.length_cons] at hlen
    have hbyte := execRx_telemetry b h.sel h.position
    obtain hseek | ⟨hmid, hidx⟩ := cfdByte_progress b h
    · exact ⟨1, le_rfl, by simp, _, (feedBytes_singleton b s).trans hbyte, hseek⟩
    · obtain ⟨k, -, hk, t, ht, hseek⟩ := ih hmid (by omega)
      refine ⟨k + 1, by omega, by simpa using hk, t, ?_, hseek⟩
      rw [List.take_succ_cons, feedBytes_telemetry s h.sel h.position, ht]

/-- R44: outside S0 at least the first sentinel is counted. -/
theorem State.MidFrame.cfdIdx_pos {s : State} (h : s.MidFrame) : 1 ≤ s.cfdIdx.toNat := by
  obtain ⟨-, hpos, hleft⟩ := h
  cases hst : s.cfdSt with
  | seekHeader0 => exact absurd hst hleft
  | _ =>
    simp only [State.cfdPositionOk, hst, positionOk, Bool.and_eq_true, beq_iff_eq, decide_eq_true_eq] at hpos
    omega

/-- Settles O19: of the 31 counts left at most, each byte uses one up. -/
theorem backInSeekWithin31Bytes : Obligations.BackInSeekWithin31Bytes := by
  unfold Obligations.BackInSeekWithin31Bytes
  intro s bs hsel hpos hst hlen
  have hmid : s.MidFrame := ⟨hsel, hpos, hst⟩
  have := hmid.cfdIdx_pos
  simpa only [hlen] using feedBytes_reaches_seek hmid bs (by omega)

end Sys2Proof.Machine
end

section
/-! PROOFS. A whole telemetry frame at the decoder in its seek state (R154, R155, R157): emitted with the right checksum,
discarded with any other, and alone in noise. -/

namespace Sys2Proof.Machine

/-- R144 to R148: a frame taken but for its last byte, the high checksum byte `ckh` the last one taken. -/
def State.beforeLastByte (s : State) (lenLo : Byte) (p : List Byte) (ckh : Byte) : State :=
  rxReadChecksumHi ckh (s.inFrame lenLo p)

/-- R149: a frame with its right checksum taken. -/
def State.afterValidFrame (s : State) (lenLo : Byte) (p : List Byte) : State :=
  emitFrame (s.beforeLastByte lenLo p (hi8 (sum16 ([HDR0, HDR1, 0x00, lenLo] ++ p))))

section
variable {s : State} {lenLo : Byte} {p : List Byte}

theorem cfdLen_beforeLastByte (s : State) (ckh : Byte) (hp : p.length + 2 = lenLo.toNat) :
    (s.beforeLastByte lenLo p ckh).cfdLen.toNat = p.length + 2 :=
  (cfdLen_inFrame (s := s) p).trans hp.symm

/-- R147: PAY holds the payload, and behind it what it held before. -/
theorem pay_beforeLastByte (s : State) (lenLo : Byte) (p : List Byte) (ckh : Byte) (i : Nat) :
    (s.beforeLastByte lenLo p ckh).pay.read i = if i < p.length then p.getD i 0x00 else s.pay.read i := by
  show (s.pay.writeBytes 0 p).read i = _
  rw [Memory.read_writeBytes, Nat.zero_add, Nat.sub_zero]
  simp only [Nat.zero_le, true_and]

/-- R143 to R148: all of a frame but its last byte moves only the position and PAY. -/
theorem effect_beforeLastByte (s : State) (lenLo : Byte) (p : List Byte) (ckh : Byte) :
    Effect s (s.beforeLastByte lenLo p ckh) positionRegs s.flags (List.replicate (p.length + 5) .none) := by
  rw [List.replicate_succ']
  have hframe : Effect s (s.inFrame lenLo p) positionRegs s.flags (List.replicate (p.length + 4) .none) :=
    effect_position s _ _ _ _ _ _ _ (.inl (by decide)) (.inl (by decide)) (.inr rfl)
  exact hframe.trans
    (effect_position (s.inFrame lenLo p) [.none] _ _ _ _ _ _ (.inr rfl) (.inr rfl) (.inl (by decide)))

theorem seeking_afterValidFrame (s : State) (lenLo : Byte) (p : List Byte) : (s.afterValidFrame lenLo p).Seeking :=
  seeking_emitFrame _

/-- R154, R149: what a valid frame in the seek state changes and outputs. -/
theorem effect_afterValidFrame (hseek : s.Seeking) (hp : p.length + 2 = lenLo.toNat) :
    Effect s (s.afterValidFrame lenLo p) (0x00B :: frmDataRegs)
      { s.flags with frmValid := true, frmOvr := s.frmOvr || s.frmValid }
      (List.replicate (p.length + 5) .none ++ [.frame (cat16 0x00 lenLo) p]) := by
  have hlast : Effect _ (s.afterValidFrame lenLo p) _ _ _ := effect_emitFrame _
  have hdata (ckh : Byte) : (s.beforeLastByte lenLo p ckh).pay.readBytes p.length = p :=
    Memory.readBytes_writeBytes s.pay p
  rw [cfdLen_beforeLastByte s _ hp, Nat.add_sub_cancel, hdata] at hlast
  have hall := ((effect_beforeLastByte s lenLo p _).mono (List.subset_append_left _ _)).trans hlast
  exact hall.between_seeking hseek (seeking_afterValidFrame s lenLo p)

/-- R149, R33: the latched frame is the payload, 0 behind it. -/
theorem frmData_afterValidFrame (s : State) (hp : p.length + 2 = lenLo.toNat) {i : Nat} (hi : i < 26) :
    (s.afterValidFrame lenLo p).frmData.read i = p.getD i 0x00 := by
  rw [State.afterValidFrame, emitFrame_frmData _ hi, cfdLen_beforeLastByte s _ hp, Nat.add_sub_cancel,
    pay_beforeLastByte]
  by_cases hip : i < p.length
  · rw [if_pos hip, if_pos hip]
  · rw [if_neg hip, List.getD_eq_default _ _ (Nat.le_of_not_lt hip)]

/-- R154: a valid frame of either kind, in the seek state. -/
theorem validFrame_emitted {n : Nat} (hsel : s.rxsel = false) (hseek : s.Seeking) (hlen : AdmissibleLen lenLo)
    (hn : p.length = n) (hp : n + 2 = lenLo.toNat) :
    ∃ t, feedBytes (telemetryBytes lenLo p (sum16 ([HDR0, HDR1, 0x00, lenLo] ++ p))) s = .next t ∧ t.Seeking ∧
      Effect s t (0x00B :: frmDataRegs) { s.flags with frmValid := true, frmOvr := s.frmOvr || s.frmValid }
        (List.replicate (n + 5) .none ++ [.frame (cat16 0x00 lenLo) p]) ∧
      t.frmLen = cat16 0x00 lenLo ∧ (∀ i < 26, t.frmData.read i = p.getD i 0x00) ∧
      ∀ i, t.pay.read i = if i < n then p.getD i 0x00 else s.pay.read i := by
  subst hn
  exact ⟨s.afterValidFrame lenLo p, feedBytes_validFrame hsel hseek hlen hp, seeking_afterValidFrame s lenLo p,
    effect_afterValidFrame hseek hp, rfl, fun i hi => frmData_afterValidFrame s hp hi,
    fun i => pay_beforeLastByte s lenLo p (hi8 (sum16 ([HDR0, HDR1, 0x00, lenLo] ++ p))) i⟩

/-- R157: a frame of either kind with another checksum, in the seek state. -/
theorem corruptFrame_discarded {n : Nat} {c : Half} (hsel : s.rxsel = false) (hseek : s.Seeking)
    (hlen : AdmissibleLen lenLo) (hn : p.length = n) (hp : n + 2 = lenLo.toNat)
    (hc : c ≠ sum16 ([HDR0, HDR1, 0x00, lenLo] ++ p)) :
    ∃ t, feedBytes (telemetryBytes lenLo p c) s = .next t ∧ t.Seeking ∧
      Effect s t discardRegs s.flags (List.replicate (n + 6) .none) ∧
      t.discCnt.toNat = min (s.discCnt.toNat + 1) 0xFFFF ∧ t.discCause = .badChecksum ∧
      ∀ i, t.pay.read i = if i < n then p.getD i 0x00 else s.pay.read i := by
  subst hn
  have hmiss : ¬ (hi8 c = hi8 (sum16 ([HDR0, HDR1, 0x00, lenLo] ++ p)) ∧
      lo8 c = lo8 (sum16 ([HDR0, HDR1, 0x00, lenLo] ++ p))) :=
    fun ⟨hhi, hlo⟩ => hc (by rw [← cat16_hi8_lo8 c, hhi, hlo, cat16_hi8_lo8])
  have hbytes : feedBytes (telemetryBytes lenLo p c) s =
      .next (((s.beforeLastByte lenLo p (hi8 c)).raiseDiscard .badChecksum).emit .none) :=
    (feedBytes_telemetryBytes c hsel hseek hlen hp).trans (congrArg Host.Outcome.next (if_neg hmiss))
  have hall := ((effect_beforeLastByte s lenLo p (hi8 c)).mono (List.subset_append_left _ _)).trans
    (effect_raiseDiscard _ .badChecksum)
  rw [← List.replicate_succ'] at hall
  exact ⟨_, hbytes, seeking_raiseDiscard _ _, hall.between_seeking hseek (seeking_raiseDiscard _ _), satInc_toNat _,
    rfl, pay_beforeLastByte s lenLo p (hi8 c)⟩

end

/-- Settles O15: the two kinds of frame, as they arrive. -/
theorem wellFormedFrameEmitted : Obligations.WellFormedFrameEmitted := by
  unfold Obligations.WellFormedFrameEmitted
  intro s p hsel hseek
  exact ⟨fun hp => validFrame_emitted hsel hseek (.inl rfl) hp rfl, fun hp => validFrame_emitted hsel hseek (.inr rfl) hp rfl⟩

/-- Settles O17: the two kinds of frame, as they arrive. -/
theorem corruptChecksumDiscarded : Obligations.CorruptChecksumDiscarded := by
  unfold Obligations.CorruptChecksumDiscarded
  intro s p c hsel hseek
  exact ⟨fun hp hc => corruptFrame_discarded hsel hseek (.inl rfl) hp rfl hc,
    fun hp hc => corruptFrame_discarded hsel hseek (.inr rfl) hp rfl hc⟩

/-- R44: the seek state is on the table. -/
theorem State.Seeking.cfdPositionOk {s : State} (h : s.Seeking) : s.cfdPositionOk = true := by
  rw [← h.cfdResync_eq]
  rfl

theorem State.Seeking.appendOut {s : State} (h : s.Seeking) (os : List Output) : (s.appendOut os).Seeking := h

/-- R143: in the seek state bytes other than the sentinel are skipped. -/
theorem feedBytes_noise {s : State} (bs : List Byte) (hsel : s.rxsel = false) (hseek : s.Seeking) (hbs : 0x42 ∉ bs) :
    feedBytes bs s = .next (s.appendOut (List.replicate bs.length .none)) := by
  induction bs generalizing s with
  | nil => exact congrArg Host.Outcome.next (State.appendOut_nil s).symm
  | cons b bs ih =>
    rw [List.mem_cons, not_or] at hbs
    obtain ⟨hb, hbs⟩ := hbs
    have hskip : cfdByte b s = s.appendOut [.none] := by
      have hst : s.cfdSt = .seekHeader0 := hseek.1
      rw [cfdByte, hst]
      exact if_neg fun h => hb h.symm
    rw [feedBytes_telemetry s hsel hseek.cfdPositionOk, hskip, ih (s := s.appendOut [.none]) hsel (hseek.appendOut _) hbs,
      State.appendOut_appendOut]
    rfl

/-- Settles O18: noise is skipped before and behind the frame, and the frame starts and ends in the seek state. -/
theorem oneFrameInNoise : Obligations.OneFrameInNoise := by
  unfold Obligations.OneFrameInNoise
  intro s before after p lenLo hsel hseek hbefore hafter hkind
  obtain ⟨hlen, hp⟩ : AdmissibleLen lenLo ∧ p.length + 2 = lenLo.toNat := by
    obtain ⟨rfl, hp⟩ | ⟨rfl, hp⟩ := hkind
    · exact ⟨.inl rfl, by rw [hp]; rfl⟩
    · exact ⟨.inr rfl, by rw [hp]; rfl⟩
  have hseek' := hseek.appendOut (List.replicate before.length .none)
  have hframe : feedBytes _ _ = .next ((s.appendOut (List.replicate before.length .none)).afterValidFrame lenLo p) :=
    feedBytes_validFrame hsel hseek' hlen hp
  have hend := seeking_afterValidFrame (s.appendOut (List.replicate before.length .none)) lenLo p
  refine ⟨_, ?_, hend.appendOut (List.replicate after.length .none), rfl, rfl, ?_⟩
  · rw [List.append_assoc, feedBytes_append, feedBytes_noise before hsel hseek hbefore, andThen_next, feedBytes_append,
      hframe, andThen_next]
    exact feedBytes_noise after hsel hend hafter
  · have hcount : List.replicate (before.length + p.length + 5) Output.none =
        List.replicate before.length .none ++ List.replicate (p.length + 5) .none := by
      rw [Nat.add_assoc, List.replicate_add]
    rw [State.appendOut_out, (effect_afterValidFrame hseek' hp).out, State.appendOut_out, hcount]
    simp only [List.append_assoc]

end Sys2Proof.Machine
end

section
/-! SUPPORT. MB_ENCODE and MB_ARM (R170 to R176): what each makes of a state, and what they leave unchanged. -/

namespace Sys2Proof.Machine

/-- R93, R170: the eight bytes of the request the operand registers describe. -/
def State.request (s : State) : List Byte :=
  requestBytes s.cfg.devAddr s.mbFunc s.mbReg s.mbVal (crc16 s.requestHead)

/-- R170: the request is built. -/
def State.encoded (s : State) : State :=
  { s with txbuf := s.txbuf.writeBytes 0 s.request, txLen := 8, encErr := false }

/-- R176: an exchange starts at its first byte. -/
def State.armed (s : State) : State :=
  { s with mbIdx := 0, mbCrc := CRC_INIT, mbDone := false, mbValid := false, mbFail := 0, mbOut := true }

theorem encodable_iff (cfg : Config) (f : Byte) (v : Half) :
    encodable cfg f v = true ↔ (f = cfg.rfA ∨ f = cfg.rfB) ∧ 1 ≤ v.toNat ∨ f = cfg.wf := by
  simp only [encodable, Bool.or_eq_true, decide_eq_true_eq]

theorem execCmdMbEncode_accepted {s : State} (free : s.mbOut = false) (ok : encodable s.cfg s.mbFunc s.mbVal = true) :
    execCmdMbEncode s = .next (s.encoded.emit .none) := by
  rw [execCmdMbEncode, unlessArmed_free _ free, if_pos ok]
  rfl

theorem execCmdMbEncode_rejected {s : State} (free : s.mbOut = false)
    (bad : ¬ encodable s.cfg s.mbFunc s.mbVal = true) :
    execCmdMbEncode s = .next ({ s with encErr := true }.emit .none) := by
  rw [execCmdMbEncode, unlessArmed_free _ free, if_neg bad]

/-- R175: the legal expected lengths, by mode. -/
theorem expectedLenLegal_iff (s : State) :
    s.expectedLenLegal = true ↔ (s.mbVmode = .crc ∧ 5 ≤ s.mbExpLen.toNat ∧ s.mbExpLen.toNat ≤ 260) ∨
      (s.mbVmode = .echo ∧ 1 ≤ s.txLen.val ∧ s.txLen.val ≤ 8) := by
  cases hm : s.mbVmode <;> simp [State.expectedLenLegal, hm]

theorem execCmdMbArm_accepted {s : State} (free : s.mbOut = false) (legal : s.expectedLenLegal = true) :
    execCmdMbArm s = .next (s.armed.emit .none) := by
  rw [execCmdMbArm, unlessArmed_free _ free, if_pos legal]
  rfl

theorem execCmdMbArm_illegal {s : State} (free : s.mbOut = false) (illegal : ¬ s.expectedLenLegal = true) :
    execCmdMbArm s = refuse s := by
  rw [execCmdMbArm, unlessArmed_free _ free, if_neg illegal]

/-- R170: TXBUF holds the request. -/
theorem encoded_txbuf (s : State) : s.encoded.txbuf.readBytes 8 = s.request :=
  Memory.readBytes_writeBytes s.txbuf s.request

/-- R170, R41: building the request touches TXLEN, TXBUF and ENC_ERR. -/
theorem effect_encoded (s : State) :
    Effect s (s.encoded.emit .none) (0x017 :: txbufRegs) { s.flags with encErr := false } [.none] := by
  refine ⟨regs_same_of fun g hin hstatus hrs => ?_, rfl, rfl, rfl, rfl⟩
  cases g with
  | status => exact absurd rfl hstatus
  | txLen => exact absurd List.mem_cons_self hrs
  | txbuf i => exact absurd (List.mem_cons_of_mem _ (mem_txbufRegs (of_decide_eq_true hin))) hrs
  | _ => rfl

/-- R171: a rejected request touches ENC_ERR only. -/
theorem effect_encodeRejected (s : State) :
    Effect s ({ s with encErr := true }.emit .none) [] { s.flags with encErr := true } [.none] := by
  refine ⟨regs_same_of fun g _ hstatus _ => ?_, rfl, rfl, rfl, rfl⟩
  cases g with
  | status => exact absurd rfl hstatus
  | _ => rfl

/-- R35, R39, R42: where only the collector's own state moves, its registers that keep their values need not be listed. -/
theorem effect_collector {s t : State} {rs : List RegNum} {os : List Output} (h : OnlyCollectorChanged s t)
    (hout : t.out = s.out ++ os) (hfail : 0x003 ∈ rs ∨ t.mbFail = s.mbFail) (hcrc : 0x016 ∈ rs ∨ t.mbCrc = s.mbCrc)
    (hbuf : rxbufRegs ⊆ rs ∨ t.rxbuf = s.rxbuf) (hidx : 0x015 ∈ rs) : Effect s t rs t.flags os := by
  refine ⟨regs_same_of fun g hin hstatus hrs => ?_, rfl, by rw [h], by rw [h], hout⟩
  cases g with
  | status => exact absurd rfl hstatus
  | mbFail => exact congrArg (BitVec.setWidth 16) (hfail.resolve_left hrs)
  | mbIdx => exact absurd hidx hrs
  | mbCrc => exact hcrc.resolve_left hrs
  | rxbuf i =>
    have hsame := hbuf.resolve_left fun hsub => hrs (hsub (mem_rxbufRegs (of_decide_eq_true hin)))
    exact congrArg (fun m => zext16 (Memory.read m i)) hsame
  | _ => rw [h]; rfl

/-- R176: arming touches the collector's scalar registers and its flags. -/
theorem effect_armed (s : State) :
    Effect s (s.armed.emit .none) [0x003, 0x015, 0x016]
      { s.flags with mbOut := true, mbDone := false, mbValid := false } [.none] :=
  effect_collector rfl rfl (.inl (by decide)) (.inl (by decide)) (.inr rfl) (by decide)

end Sys2Proof.Machine
end

section
/-! PROOFS. The request is built, and the collector armed (R170 to R176). -/

namespace Sys2Proof.Machine

/-- R93, R94: an encodable request decodes to the frame of its kind. -/
theorem decode_request {s : State} (ok : encodable s.cfg s.mbFunc s.mbVal = true) :
    decode s.cfg (.frame s.request) =
      .ok (if s.mbFunc = s.cfg.rfA then .mbreqReadA s.mbReg s.mbVal (crc16 s.requestHead)
        else if s.mbFunc = s.cfg.rfB then .mbreqReadB s.mbReg s.mbVal (crc16 s.requestHead)
        else .mbreqWrite s.mbReg s.mbVal (crc16 s.requestHead)) := by
  refine (decodeFrame_requestBytes s.cfg s.mbFunc s.mbReg s.mbVal _).trans ?_
  split_ifs with hA hB hW
  · rfl
  · rfl
  · rfl
  · obtain ⟨hread, -⟩ | hwrite := (encodable_iff _ _ _).mp ok
    · exact absurd hread (not_or.mpr ⟨hA, hB⟩)
    · exact absurd hwrite hW

/-- Settles O24: the lock first, then the encoder's one test. -/
theorem encodeBuildsTheRequest : Obligations.EncodeBuildsTheRequest := by
  unfold Obligations.EncodeBuildsTheRequest
  refine ⟨fun _ => rfl, fun s legal hlegal => ⟨fun free ok => ?_, fun free bad => ?_, fun busy => ?_⟩⟩
  · have ok := (encodable_iff _ _ _).mpr (hlegal.mp ok)
    refine ⟨_, crc16 s.requestHead, execCmdMbEncode_accepted free ok, fun _ => rfl, effect_encoded s, rfl, rfl,
      encoded_txbuf s, fun _ => ?_⟩
    rw [State.emit_txbuf, encoded_txbuf]
    exact decode_request ok
  · have bad := fun ok => bad (hlegal.mpr ((encodable_iff _ _ _).mp ok))
    exact ⟨_, execCmdMbEncode_rejected free bad, fun _ => rfl, effect_encodeRejected s⟩
  · exact refused_of_eq (execCmdMbEncode_locked busy)

/-- Settles O25: refused by the lock, then by the expected length. -/
theorem armExactlyWhenLegal : Obligations.ArmExactlyWhenLegal := by
  unfold Obligations.ArmExactlyWhenLegal
  refine ⟨fun _ => rfl, fun s => ?_⟩
  simp only [← expectedLenLegal_iff]
  split_ifs with h
  · obtain ⟨free, legal⟩ := h
    exact ⟨_, execCmdMbArm_accepted free legal, fun _ => rfl, effect_armed s, rfl, rfl, rfl⟩
  · refine refused_of_eq ?_
    cases busy : s.mbOut with
    | true => exact execCmdMbArm_locked busy
    | false => exact execCmdMbArm_illegal busy fun legal => h ⟨busy, legal⟩

end Sys2Proof.Machine
end

section
/-! SUPPORT. The verdict of an exchange, check by check (R180, R181). -/

namespace Sys2Proof.Machine

theorem failCrc_eq_false_iff (b : Memory) (n : Nat) :
    failCrc b n = false ↔
      b.read (n - 2) = lo8 (crc16 (b.readBytes (n - 2))) ∧ b.read (n - 1) = hi8 (crc16 (b.readBytes (n - 2))) := by
  simp [failCrc]

theorem failAddr_eq_false_iff (cfg : Config) (b : Memory) : failAddr cfg b = false ↔ b.read 0 = cfg.devAddr := by
  simp [failAddr]

theorem failFunc_eq_false_iff (cfg : Config) (b : Memory) :
    failFunc cfg b = false ↔ b.read 1 = cfg.rfA ∨ b.read 1 = cfg.rfB := by
  simp [failFunc, or_iff_not_imp_left]

theorem failBcnt_eq_false_iff (b : Memory) (n : Nat) : failBcnt b n = false ↔ (b.read 2).toNat = n - 5 := by
  simp [failBcnt]

theorem failEcho_eq_true_iff (b tx : Memory) (n : Nat) : failEcho b tx n = true ↔ ∃ i < n, b.read i ≠ tx.read i := by
  simp [failEcho]

/-- R180: the bits of the verdict in CRC mode. -/
theorem verdict_crc_bits {s : State} (hm : s.mbVmode = .crc) :
    s.verdict.getLsbD 0 = failCrc s.rxbuf s.expectedLen ∧ s.verdict.getLsbD 1 = failAddr s.cfg s.rxbuf ∧
    s.verdict.getLsbD 2 = failFunc s.cfg s.rxbuf ∧ s.verdict.getLsbD 3 = failBcnt s.rxbuf s.expectedLen ∧
    s.verdict.getLsbD 4 = false := by
  simp only [State.verdict, hm]
  exact failMask_bits _ _ _ _ _

/-- R181: the bits of the verdict in ECHO mode. -/
theorem verdict_echo_bits {s : State} (hm : s.mbVmode = .echo) :
    s.verdict.getLsbD 0 = false ∧ s.verdict.getLsbD 1 = false ∧ s.verdict.getLsbD 2 = false ∧
    s.verdict.getLsbD 3 = false ∧ s.verdict.getLsbD 4 = failEcho s.rxbuf s.txbuf s.expectedLen := by
  simp only [State.verdict, hm]
  exact failMask_bits _ _ _ _ _

/-- R178, R179: when a byte is folded. -/
theorem foldsCrc_iff (s : State) : s.foldsCrc = true ↔ s.mbVmode = .crc ∧ s.mbIdx.toNat + 2 < s.expectedLen := by
  simp [State.foldsCrc]; omega

end Sys2Proof.Machine
end

section
/-! PROOFS. A byte to the collector (R178 to R182). -/

namespace Sys2Proof.Machine

/-- Settles O26: dropped, or collected. -/
theorem collectorByte : Obligations.CollectorByte := by
  unfold Obligations.CollectorByte
  intro s b hsel
  refine ⟨fun free => ⟨_, execRx_dropped b hsel free, fun _ => rfl, effect_emit s .none⟩,
    fun hout hdone hlegal hidx => ?_⟩
  have hn := expectedLen_le hlegal
  refine ⟨_, execRx_collects b hsel hout hdone hlegal hidx, fun _ => rfl,
    effect_collector rfl rfl (.inr rfl) (.inl (by decide)) (.inl ?_) List.mem_cons_self,
    collect_mbIdx_toNat b hn (by omega), ?_, fun j => Memory.read_write _ _ j b⟩
  · exact List.subset_cons_of_subset _ (List.subset_cons_self _ _)
  · simp only [State.emit_mbCrc, State.collect_mbCrc, foldsCrc_iff]

/-- Settles O27: the byte is stored and never folded, and the verdict is on the buffer with it. -/
theorem completionVerdict : Obligations.CompletionVerdict := by
  unfold Obligations.CompletionVerdict
  intro s b B hsel hout hdone hlegal hidx hB
  have hn := expectedLen_le hlegal
  have hbuf : (s.collect b).rxbuf.read = B := funext fun j => (Memory.read_write _ _ j b).trans (hB j).symm
  have hlen : (s.collect b).expectedLen = s.expectedLen := rfl
  have hfold : ¬ s.foldsCrc = true := fun h => by have := ((foldsCrc_iff s).mp h).2; omega
  refine ⟨_, _, execRx_completes b hsel hout hdone hlegal hidx, fun _ => rfl,
    effect_collector rfl rfl (.inl (by decide)) (.inr (if_neg hfold)) (.inl ?_) (by decide), decide_eq_true_iff,
    (collect_mbIdx_toNat b hn (by omega)).trans hidx, if_neg hfold, congrFun hbuf, fun hm => ?_, fun hm => ?_⟩
  · exact List.subset_cons_of_subset _ (List.subset_cons_self _ _)
  · obtain ⟨hcrc, haddr, hfunc, hbcnt, hecho⟩ := verdict_crc_bits (s := s.collect b) hm
    simp only [State.complete_mbFail, hcrc, haddr, hfunc, hbcnt, hecho, hlen, ← Bool.not_eq_false, failCrc_eq_false_iff,
      failAddr_eq_false_iff, failFunc_eq_false_iff, failBcnt_eq_false_iff, Memory.readBytes, hbuf, State.collect_cfg,
      not_or, ne_eq, iff_self, and_self]
  · obtain ⟨hcrc, haddr, hfunc, hbcnt, hecho⟩ := verdict_echo_bits (s := s.collect b) hm
    simp only [State.complete_mbFail, hcrc, haddr, hfunc, hbcnt, hecho, failEcho_eq_true_iff, hbuf, hlen,
      State.collect_txbuf, iff_self, and_self]

end Sys2Proof.Machine
end

section
/-! SUPPORT. A whole response at a collector freshly armed in CRC mode: the state it leaves, judged on its own bytes
(R178 to R182). -/

namespace Sys2Proof.Machine

/-- The first bytes of a buffer's first bytes. -/
theorem Memory.take_readBytes (m : Memory) {k n : Nat} (h : k ≤ n) : (m.readBytes n).take k = m.readBytes k := by
  rw [Memory.readBytes, ← List.map_take, List.take_range, Nat.min_eq_left h, Memory.readBytes]

/-- The last two of a buffer's first bytes. -/
theorem Memory.drop_readBytes (m : Memory) {n : Nat} (h : 2 ≤ n) :
    (m.readBytes n).drop (n - 2) = [m.read (n - 2), m.read (n - 1)] := by
  obtain ⟨k, rfl⟩ := Nat.exists_eq_add_of_le' h
  rw [Memory.readBytes_succ, Memory.readBytes_succ, List.append_assoc]
  exact List.drop_left' (Memory.length_readBytes m k)

theorem Memory.getD_readBytes (m : Memory) {i n : Nat} (h : i < n) : (m.readBytes n).getD i 0 = m.read i := by
  simp [Memory.readBytes, h]

/-- R35: the five bits of MB_FAIL are all there is. -/
theorem mask_eq_zero_iff (m : BitVec 5) :
    m = 0 ↔ m.getLsbD 0 = false ∧ m.getLsbD 1 = false ∧ m.getLsbD 2 = false ∧ m.getLsbD 3 = false ∧
      m.getLsbD 4 = false := by
  revert m; decide

/-- R180: which checks the bytes of a response pass in CRC mode. -/
theorem verdict_crc_of_bytes {s : State} {bs : List Byte} (hm : s.mbVmode = .crc) (hlen : bs.length = s.expectedLen)
    (h5 : 5 ≤ bs.length) (hbuf : s.rxbuf.readBytes bs.length = bs) :
    (s.verdict.getLsbD 0 = false ↔ bs.drop (bs.length - 2) =
      [lo8 (crc16 (bs.take (bs.length - 2))), hi8 (crc16 (bs.take (bs.length - 2)))]) ∧
    (s.verdict.getLsbD 1 = false ↔ bs.getD 0 0 = s.cfg.devAddr) ∧
    (s.verdict.getLsbD 2 = false ↔ bs.getD 1 0 = s.cfg.rfA ∨ bs.getD 1 0 = s.cfg.rfB) ∧
    (s.verdict.getLsbD 3 = false ↔ (bs.getD 2 0).toNat = bs.length - 5) ∧
    s.verdict.getLsbD 4 = false := by
  obtain ⟨hcrc, haddr, hfunc, hbcnt, hecho⟩ := verdict_crc_bits hm
  have htake := s.rxbuf.take_readBytes (n := bs.length) (Nat.sub_le _ 2)
  have hdrop := s.rxbuf.drop_readBytes (n := bs.length) (by omega)
  have hget (i : Nat) (hi : i < bs.length) := s.rxbuf.getD_readBytes hi
  rw [hbuf] at htake hdrop
  rw [hbuf] at hget
  refine ⟨?_, ?_, ?_, ?_, hecho⟩
  · rw [hcrc, ← hlen, failCrc_eq_false_iff, htake, hdrop, List.cons.injEq, List.cons.injEq, and_iff_left rfl]
  · rw [haddr, failAddr_eq_false_iff, hget 0 (by omega)]
  · rw [hfunc, failFunc_eq_false_iff, hget 1 (by omega)]
  · rw [hbcnt, ← hlen, failBcnt_eq_false_iff, hget 2 (by omega)]

/-- R182: the exchange that a run of bytes fills, judged. -/
def State.judged (s : State) (bs : List Byte) : State :=
  ((s.received bs).appendOut (List.replicate (bs.length - 1) .none)).complete

/-- R178, R182: the run of bytes that fills the exchange. -/
theorem feedBytes_judged {s : State} (h : s.Listening) (hidx : s.mbIdx = 0) {bs : List Byte}
    (hlen : bs.length = s.expectedLen) : feedBytes bs s = .next (s.judged bs) := by
  have hpos := (expectedLen_pos h.legal).1
  cases bs with
  | nil => rw [← hlen] at hpos; cases hpos
  | cons b bs => exact feedBytes_completes h b bs (by rw [hidx, ← hlen]; exact Nat.zero_add _)

/-- R182: what a judged exchange has changed and output. -/
theorem effect_judged (s : State) (bs : List Byte) :
    Effect s (s.judged bs) collectorRegs
      { s.flags with mbOut := false, mbDone := true, mbValid := decide ((s.judged bs).mbFail = 0) }
      (List.replicate (bs.length - 1) .none ++
        [.mbresult (decide ((s.judged bs).mbFail = 0)) (s.judged bs).mbFail]) :=
  ⟨OnlyCollectorChanged.regs rfl, rfl, rfl, rfl, List.append_assoc _ _ _⟩

section
variable {s : State} {bs : List Byte}

theorem judged_mbIdx (h : s.Listening) (hidx : s.mbIdx = 0) (hlen : bs.length = s.expectedLen) :
    (s.judged bs).mbIdx.toNat = bs.length := by
  have hn := expectedLen_le h.legal
  show (s.mbIdx + BitVec.ofNat 9 bs.length).toNat = _
  rw [hidx, BitVec.ofNat_eq_ofNat, BitVec.zero_add, BitVec.toNat_ofNat, Nat.mod_eq_of_lt (by omega)]

/-- R179: MB_CRC is the CRC of all but the trailing two bytes. -/
theorem judged_mbCrc (hm : s.mbVmode = .crc) (hidx : s.mbIdx = 0) (hcrc : s.mbCrc = 0xFFFF)
    (hlen : bs.length = s.expectedLen) : (s.judged bs).mbCrc = crc16 (bs.take (bs.length - 2)) := by
  show s.crcAfter bs = _
  rw [State.crcAfter, hm, hidx, hcrc, hlen]
  rfl

/-- R178: RXBUF holds the bytes. -/
theorem judged_rxbuf (hidx : s.mbIdx = 0) (bs : List Byte) : (s.judged bs).rxbuf = s.rxbuf.writeBytes 0 bs :=
  received_rxbuf hidx bs

theorem judged_rxbuf_read (hidx : s.mbIdx = 0) {i : Nat} (hi : i < bs.length) :
    (s.judged bs).rxbuf.read i = bs.getD i 0 := by
  rw [judged_rxbuf hidx, Memory.read_writeBytes, Nat.zero_add, Nat.sub_zero, if_pos ⟨Nat.zero_le i, hi⟩]

/-- R180: the checks of a whole response. -/
theorem judged_mbFail (h : s.Listening) (hm : s.mbVmode = .crc) (hidx : s.mbIdx = 0) (hlen : bs.length = s.expectedLen) :
    ((s.judged bs).mbFail.getLsbD 0 = false ↔ bs.drop (bs.length - 2) =
      [lo8 (crc16 (bs.take (bs.length - 2))), hi8 (crc16 (bs.take (bs.length - 2)))]) ∧
    ((s.judged bs).mbFail.getLsbD 1 = false ↔ bs.getD 0 0 = s.cfg.devAddr) ∧
    ((s.judged bs).mbFail.getLsbD 2 = false ↔ bs.getD 1 0 = s.cfg.rfA ∨ bs.getD 1 0 = s.cfg.rfB) ∧
    ((s.judged bs).mbFail.getLsbD 3 = false ↔ (bs.getD 2 0).toNat = bs.length - 5) ∧
    (s.judged bs).mbFail.getLsbD 4 = false := by
  have h5 := (expectedLen_pos h.legal).2 hm
  have hbuf : (s.received bs).rxbuf.readBytes bs.length = bs := by
    rw [received_rxbuf hidx]
    exact Memory.readBytes_writeBytes s.rxbuf bs
  exact verdict_crc_of_bytes (s := (s.received bs).appendOut (List.replicate (bs.length - 1) .none)) hm hlen
    (hlen ▸ h5) hbuf

/-- R180, R182: the response is valid exactly where it passes the four checks. -/
theorem judged_mbFail_eq_zero_iff (h : s.Listening) (hm : s.mbVmode = .crc) (hidx : s.mbIdx = 0)
    (hlen : bs.length = s.expectedLen) :
    (s.judged bs).mbFail = 0 ↔
      bs.drop (bs.length - 2) = [lo8 (crc16 (bs.take (bs.length - 2))), hi8 (crc16 (bs.take (bs.length - 2)))] ∧
      bs.getD 0 0 = s.cfg.devAddr ∧ (bs.getD 1 0 = s.cfg.rfA ∨ bs.getD 1 0 = s.cfg.rfB) ∧
      (bs.getD 2 0).toNat = bs.length - 5 := by
  obtain ⟨hcrc, haddr, hfunc, hbcnt, hecho⟩ := judged_mbFail h hm hidx hlen
  rw [mask_eq_zero_iff, hcrc, haddr, hfunc, hbcnt, hecho, and_iff_left rfl]

end

end Sys2Proof.Machine
end

section
/-! SUPPORT. The host's events before a response (R105, R106, R228): a request built and the collector armed for it. -/

namespace Sys2Proof.Machine

/-- Lists of events one after the other. -/
theorem execAll_append (p q : List Instr) (s : State) : execAll (p ++ q) s = andThen (execAll p s) (execAll q) := by
  induction p generalizing s with
  | nil => rfl
  | cons i p ih =>
    simp only [List.cons_append, execAll]
    cases exec i s <;> simp [ih]

theorem lo8_zext16 (b : Byte) : lo8 (zext16 b) = b := by rw [zext16_eq_cat16, lo8_cat16]

/-- R228 step 2. -/
theorem execAll_selModbus (s : State) :
    execAll Pseudo.selModbus.expand s = .next ({ s with rxsel := true }.emit .none) := rfl

/-- R170: the operands are set and the request built. -/
def State.requested (s : State) (f : Byte) (reg v : Half) : State :=
  { s with mbFunc := f, mbReg := reg, mbVal := v }.encoded

/-- R201: the operand registers take the request. -/
theorem execAll_operands (s : State) (f : Byte) (reg v : Half) :
    execAll [.wr 0x010 (zext16 f), .wr 0x011 reg, .wr 0x012 v] s =
      .next ({ s with mbFunc := f, mbReg := reg, mbVal := v }.appendOut (List.replicate 3 .none)) := by
  show Host.Outcome.next { s with
    mbFunc := lo8 (zext16 f), mbReg := reg, mbVal := v
    out := s.out ++ [Output.none] ++ [Output.none] ++ [Output.none] } = _
  rw [lo8_zext16, List.append_assoc, List.append_assoc]
  rfl

/-- R106: `REQ` of an encodable request. -/
theorem execAll_req {s : State} {f : Byte} {v : Half} (reg : Half) (free : s.mbOut = false)
    (ok : encodable s.cfg f v = true) :
    execAll (Pseudo.req (zext16 f) reg v).expand s =
      .next ((s.requested f reg v).appendOut (List.replicate 4 .none)) := by
  let u := { s with mbFunc := f, mbReg := reg, mbVal := v }.appendOut (List.replicate 3 .none)
  have hencode : execCmdMbEncode u = .next (u.encoded.emit .none) := execCmdMbEncode_accepted free ok
  have hsplit : (Pseudo.req (zext16 f) reg v).expand =
    [.wr 0x010 (zext16 f), .wr 0x011 reg, .wr 0x012 v] ++ [.cmdMbEncode] := rfl
  rw [hsplit, execAll_append, execAll_operands, andThen_next]
  show andThen (execCmdMbEncode u) (execAll []) = _
  rw [hencode]
  exact congrArg Host.Outcome.next (State.appendOut_appendOut (s.requested f reg v) (List.replicate 3 .none) [.none])

/-- R176, R38: the collector waits for a response of `n` bytes in CRC mode. -/
def State.expectingCrc (s : State) (n : Half) : State :=
  { s with mbVmode := .crc, mbExpLen := n.extractLsb' 0 9 }.armed

/-- R38, R201: a length that fits MB_EXP_LEN is written as it is. -/
theorem expLen_toNat {n : Half} (h : n.toNat ≤ 260) : (n.extractLsb' 0 9).toNat = n.toNat := by
  rw [BitVec.extractLsb'_toNat, Nat.shiftRight_zero, Nat.mod_eq_of_lt (by omega)]

/-- R201: MB_VMODE takes a write while no exchange is outstanding. -/
theorem execWr_vmode {s : State} (v : Half) (free : s.mbOut = false) :
    execWr 0x014 v s = .next ({ s with mbVmode := VMode.ofBit (v.getLsbD 0) }.emit .none) := by
  have hr : regAt 0x014 = some .mbVmode := rfl
  simp only [execWr, hr, unlessArmed_free _ free]

/-- R201: MB_EXP_LEN takes a write while no exchange is outstanding. -/
theorem execWr_expLen {s : State} (v : Half) (free : s.mbOut = false) :
    execWr 0x013 v s = .next ({ s with mbExpLen := v.extractLsb' 0 9 }.emit .none) := by
  have hr : regAt 0x013 = some .mbExpLen := rfl
  simp only [execWr, hr, unlessArmed_free _ free]

/-- R106: `EXPECT CRC` of a legal length. -/
theorem execAll_expectCrc {s : State} {n : Half} (free : s.mbOut = false) (hlo : 5 ≤ n.toNat) (hhi : n.toNat ≤ 260) :
    execAll (Pseudo.expectCrc n).expand s = .next ((s.expectingCrc n).appendOut (List.replicate 3 .none)) := by
  let u := { s with mbVmode := .crc, mbExpLen := n.extractLsb' 0 9 }.appendOut [.none, .none]
  have hmode : exec (.wr 0x014 0) s = .next ({ s with mbVmode := .crc }.emit .none) := execWr_vmode 0 free
  have hlength : exec (.wr 0x013 n) ({ s with mbVmode := .crc }.emit .none) =
      .next (({ s with mbVmode := .crc, mbExpLen := n.extractLsb' 0 9 }.emit .none).emit .none) := execWr_expLen n free
  have hset : execAll [.wr 0x014 0, .wr 0x013 n] s = .next u := by
    rw [execAll, hmode, andThen_next, execAll, hlength, andThen_next]
    exact congrArg Host.Outcome.next (State.appendOut_appendOut _ [.none] [.none])
  have hlegal : u.expectedLenLegal = true := (expectedLenLegal_iff u).mpr (.inl ⟨rfl, by
    rw [show u.mbExpLen.toNat = n.toNat from expLen_toNat hhi]; exact ⟨hlo, hhi⟩⟩)
  have harm : execCmdMbArm u = .next (u.armed.emit .none) := execCmdMbArm_accepted free hlegal
  have hsplit : (Pseudo.expectCrc n).expand = [.wr 0x014 0, .wr 0x013 n] ++ [.cmdMbArm] := rfl
  rw [hsplit, execAll_append, hset, andThen_next]
  show andThen (execCmdMbArm u) (execAll []) = _
  rw [harm]
  exact congrArg Host.Outcome.next (State.appendOut_appendOut (s.expectingCrc n) [.none, .none] [.none])

/-- R228 steps 2 and 3: the request of a read is in TXBUF, and the collector waits for its response. -/
def State.awaitingRead (s : State) (f : Byte) (reg n : Half) : State :=
  ({ s with rxsel := true }.requested f reg n).expectingCrc (5 + 2 * n)

/-- R96: the length of the response to a read of `n` registers. -/
theorem responseLen_toNat {n : Half} (h : 5 + 2 * n.toNat ≤ 260) : (5 + 2 * n).toNat = 5 + 2 * n.toNat := by
  simp [BitVec.toNat_add, BitVec.toNat_mul]; omega

/-- R228 steps 2 and 3, for a read. -/
theorem execAll_readExchange {s : State} {f : Byte} {n : Half} (reg : Half) (free : s.mbOut = false)
    (hf : f = s.cfg.rfA ∨ f = s.cfg.rfB) (h1 : 1 ≤ n.toNat) (hn : 5 + 2 * n.toNat ≤ 260) :
    execAll (readExchange (zext16 f) reg n) s =
      .next ((s.awaitingRead f reg n).appendOut (List.replicate 8 .none)) := by
  have hlen := responseLen_toNat hn
  have ok : encodable s.cfg f n = true := (encodable_iff _ _ _).mpr (.inl ⟨hf, h1⟩)
  let u := { s with rxsel := true }.emit .none
  let v := (u.requested f reg n).appendOut (List.replicate 4 .none)
  have hreq : execAll (Pseudo.req (zext16 f) reg n).expand u = .next v := execAll_req reg free ok
  have hexp : execAll (Pseudo.expectCrc (5 + 2 * n)).expand v =
      .next ((v.expectingCrc (5 + 2 * n)).appendOut (List.replicate 3 .none)) :=
    execAll_expectCrc free (by omega) (by omega)
  rw [readExchange, execAll_append, execAll_append, execAll_selModbus, andThen_next, hreq, andThen_next, hexp]
  have hout : (s.awaitingRead f reg n).appendOut (List.replicate 8 .none) =
      (((s.awaitingRead f reg n).appendOut [.none]).appendOut (List.replicate 4 .none)).appendOut
        (List.replicate 3 .none) := by
    rw [State.appendOut_appendOut, State.appendOut_appendOut]
    rfl
  rw [hout]
  rfl

/-- R96, R123: the response to a read of `n` registers, with its CRC. -/
def readResponse (addr f : Byte) (n : Half) (data : List Byte) : List Byte :=
  let head := [addr, f, lo8 (2 * n)] ++ data
  head ++ [lo8 (crc16 head), hi8 (crc16 head)]

section
variable {f : Byte} {n : Half} {data : List Byte}

theorem length_readResponse (addr : Byte) (hdata : data.length = 2 * n.toNat) :
    (readResponse addr f n data).length = 5 + 2 * n.toNat := by
  simp [readResponse, hdata]; omega

/-- R96: the data starts at index 3. -/
theorem getD_readResponse (addr : Byte) {i : Nat} (hi : i < data.length) :
    (readResponse addr f n data).getD (3 + i) 0 = data.getD i 0 := by
  have hhead : 3 + i < ([addr, f, lo8 (2 * n)] ++ data).length := by simp; omega
  rw [readResponse, List.getD_append _ _ _ _ hhead, List.getD_append_right _ _ _ _ (Nat.le_add_right 3 i)]
  exact congrArg (data.getD · 0) (Nat.add_sub_cancel_left 3 i)

/-- R100: the byte-count of a response with `n` registers. -/
theorem byteCount_toNat (hn : 5 + 2 * n.toNat ≤ 260) : (lo8 (2 * n)).toNat = 2 * n.toNat := by
  simp [lo8_toNat, BitVec.toNat_mul]; omega

/-- R185 (a): the response to the read that was armed for passes every check. -/
theorem judged_readResponse {s : State} (h : s.Listening) (hm : s.mbVmode = .crc) (hidx : s.mbIdx = 0)
    (hf : f = s.cfg.rfA ∨ f = s.cfg.rfB) (hn : 5 + 2 * n.toNat ≤ 260) (hdata : data.length = 2 * n.toNat)
    (hlen : s.expectedLen = 5 + 2 * n.toNat) : (s.judged (readResponse s.cfg.devAddr f n data)).mbFail = 0 := by
  have hbytes := length_readResponse (f := f) s.cfg.devAddr hdata
  refine (judged_mbFail_eq_zero_iff h hm hidx (hbytes.trans hlen.symm)).mpr ⟨?_, rfl, hf, ?_⟩
  · have hhead : (readResponse s.cfg.devAddr f n data).length - 2 = ([s.cfg.devAddr, f, lo8 (2 * n)] ++ data).length :=
      congrArg (· - 2) List.length_append
    rw [hhead, readResponse, List.drop_left, List.take_left]
  · rw [hbytes, Nat.add_sub_cancel_left]
    exact byteCount_toNat hn

end

section
variable (s : State) (f : Byte) (reg : Half) {n : Half}

theorem expectedLen_awaitingRead (hn : 5 + 2 * n.toNat ≤ 260) :
    (s.awaitingRead f reg n).expectedLen = 5 + 2 * n.toNat := by
  have hlen := responseLen_toNat hn
  exact (expLen_toNat (by omega)).trans hlen

theorem listening_awaitingRead (hn : 5 + 2 * n.toNat ≤ 260) : (s.awaitingRead f reg n).Listening := by
  have hlen : (s.awaitingRead f reg n).mbExpLen.toNat = 5 + 2 * n.toNat := expectedLen_awaitingRead s f reg hn
  exact ⟨rfl, rfl, rfl, (expectedLenLegal_iff _).mpr (.inl ⟨rfl, by omega, by omega⟩)⟩

/-- R170, R230: the bytes the host hands to the transport are the request of the read. -/
theorem requestOut_awaitingRead (n : Half) :
    (s.awaitingRead f reg n).requestOut =
      requestBytes s.cfg.devAddr f reg n (crc16 [s.cfg.devAddr, f, hi8 reg, lo8 reg, hi8 n, lo8 n]) :=
  encoded_txbuf { s with rxsel := true, mbFunc := f, mbReg := reg, mbVal := n }

end

end Sys2Proof.Machine
end

section
/-! PROOFS. Whole responses (R185). -/

namespace Sys2Proof.Machine

/-- Settles O28: the collector's state after the bytes, and its verdict on them. -/
theorem wholeResponseJudged : Obligations.WholeResponseJudged := by
  unfold Obligations.WholeResponseJudged
  intro s bs hsel hout hdone hm hlegal hidx hcrc hlen
  have h : s.Listening := ⟨hsel, hout, hdone, hlegal⟩
  exact ⟨s.judged bs, _, feedBytes_judged h hidx hlen, fun _ => rfl, effect_judged s bs, judged_mbIdx h hidx hlen,
    judged_mbCrc hm hidx hcrc hlen, fun i hi => judged_rxbuf_read hidx hi,
    decide_eq_true_iff.trans (judged_mbFail_eq_zero_iff h hm hidx hlen)⟩

/-- Settles O31: the bits of the mask, read off the eight bytes. -/
theorem requestIsNotAResponse : Obligations.RequestIsNotAResponse := by
  unfold Obligations.RequestIsNotAResponse
  intro s reg val hdistinct hsel hout hdone hm hn hidx p hp
  have h : s.Listening := ⟨hsel, hout, hdone, (expectedLenLegal_iff s).mpr (.inl ⟨hm, by simp [hn]⟩)⟩
  let bs := requestBytes s.cfg.devAddr p.2 reg val (crc16 [s.cfg.devAddr, p.2, hi8 reg, lo8 reg, hi8 val, lo8 val])
  have hlen : bs.length = s.expectedLen := by rw [State.expectedLen, hm, hn]; rfl
  obtain ⟨hcrc, haddr, hfunc, hbcnt, hecho⟩ := judged_mbFail h hm hidx hlen
  have hexec : exec (p.1 reg val (crc16 [s.cfg.devAddr, p.2, hi8 reg, lo8 reg, hi8 val, lo8 val])) s =
      feedBytes bs s := by
    simp only [List.mem_cons, List.not_mem_nil, or_false] at hp
    obtain rfl | rfl | rfl := hp <;> rfl
  have hread : p.2 = s.cfg.rfA ∨ p.2 = s.cfg.rfB ↔ p.2 ≠ s.cfg.wf := by
    obtain ⟨-, hA, hB⟩ := hdistinct
    simp only [List.mem_cons, List.not_mem_nil, or_false] at hp
    obtain rfl | rfl | rfl := hp
    · exact iff_of_true (.inl rfl) hA
    · exact iff_of_true (.inr rfl) hB
    · exact iff_of_false (not_or.mpr ⟨hA.symm, hB.symm⟩) (not_not_intro rfl)
  have hcount : (hi8 reg).toNat = (0x03 : Byte).toNat ↔ hi8 reg = 0x03 := BitVec.toNat_inj
  exact ⟨s.judged bs, _, hexec.trans (feedBytes_judged h hidx hlen), fun _ => rfl, effect_judged s bs,
    decide_eq_true_iff, hcrc.mpr rfl, haddr.mpr rfl, hfunc.trans hread, hbcnt.trans hcount, hecho⟩

/-- Settles O29: the host's events leave the collector waiting for the response, and the response passes every check. -/
theorem readExchangeRoundTrip : Obligations.ReadExchangeRoundTrip := by
  unfold Obligations.ReadExchangeRoundTrip
  intro s f reg n data head request free hf h1 hn hdata hhead hrequest
  subst hhead hrequest
  let u := (s.awaitingRead f reg n).appendOut (List.replicate 8 .none)
  let bs := readResponse s.cfg.devAddr f n data
  have h : u.Listening := { listening_awaitingRead s f reg hn with }
  have hexpected : u.expectedLen = 5 + 2 * n.toNat := expectedLen_awaitingRead s f reg hn
  have hbytes : bs.length = 5 + 2 * n.toNat := length_readResponse s.cfg.devAddr hdata
  have hfail : (u.judged bs).mbFail = 0 := judged_readResponse h rfl rfl hf hn hdata hexpected
  have hvalid : decide ((u.judged bs).mbFail = 0) = true := decide_eq_true hfail
  refine ⟨u.judged bs, ?_, rfl, hvalid, hfail, rfl, rfl, ?_, rfl, requestOut_awaitingRead s f reg n, fun i hi => ?_⟩
  · rw [execAll_readExchange reg free hf h1 hn]
    exact feedBytes_judged h rfl (hbytes.trans hexpected.symm)
  · rw [(effect_judged u bs).out, ← List.append_assoc, List.getLast?_concat, hvalid, hfail]
  · rw [judged_rxbuf_read rfl (by omega)]
    exact getD_readResponse s.cfg.devAddr hi

end Sys2Proof.Machine
end

section
/-! PROOFS. Every instruction completes from every state of the invariant (R13, R209). -/

namespace Sys2Proof.Machine

section
variable {s : State}

/-- R45 (a): an outstanding exchange is inside the collector's table. -/
theorem State.Inv.listening (h : s.Inv) (hsel : s.rxsel = true) (ho : s.mbOut = true) : s.Listening where
  sel := hsel
  out := ho
  notDone := Bool.eq_false_iff.mpr fun hd => absurd (ho.symm.trans (h.doneNotOut hd)) nofun
  legal := (h.armed ho).1

/-- R142, R178: from a state of the invariant the unit that RXSEL selects takes the byte. -/
theorem State.Inv.execRx_completes (h : s.Inv) (b : Byte) : ∃ t, execRx b s = .next t := by
  cases hsel : s.rxsel with
  | false => exact ⟨_, execRx_telemetry b hsel h.position⟩
  | true =>
    cases ho : s.mbOut with
    | false => exact ⟨_, execRx_dropped b hsel ho⟩
    | true =>
      have hl := h.listening hsel ho
      obtain ⟨-, hlt⟩ := h.armed ho
      obtain hmore | hlast := Nat.lt_or_eq_of_le (Nat.succ_le_of_lt hlt)
      · exact ⟨_, execRx_collects b hsel ho hl.notDone hl.legal hmore⟩
      · exact ⟨_, Machine.execRx_completes b hsel ho hl.notDone hl.legal hlast⟩

/-- R106, R209: from a state of the invariant every run of bytes is taken, with one output a byte. -/
theorem State.Inv.feedBytes_completes (h : s.Inv) (bs : List Byte) :
    ∃ t os, feedBytes bs s = .next t ∧ t.out = s.out ++ os ∧ os.length = bs.length := by
  induction bs generalizing s with
  | nil => exact ⟨s, [], rfl, (List.append_nil _).symm, rfl⟩
  | cons b bs ih =>
    obtain ⟨u, hu⟩ := h.execRx_completes b
    obtain ⟨o, ho⟩ := execRx_out hu
    obtain ⟨t, os, ht, hos, hlen⟩ := ih (inv_execRx h hu)
    refine ⟨t, o :: os, by rw [feedBytes_cons, hu, andThen_next, ht], ?_, congrArg (· + 1) hlen⟩
    rw [hos, ho, List.append_assoc, List.singleton_append]

/-- R90: a telemetry frame is six bytes and its payload. -/
theorem State.Inv.telemetryBytes_completes (h : s.Inv) (lenLo : Byte) (p : List Byte) (c : Half) :
    ∃ t os, feedBytes (telemetryBytes lenLo p c) s = .next t ∧ t.out = s.out ++ os ∧ os.length = p.length + 6 := by
  simpa only [length_telemetryBytes] using h.feedBytes_completes (telemetryBytes lenLo p c)

/-- An event whose output is fixed beforehand has one. -/
theorem CompletesWith.oneOutput {o : Output} {r : Result} (h : CompletesWith o s r) :
    ∃ t os, r = .next t ∧ t.out = s.out ++ os ∧ os.length = 1 := by
  obtain ⟨t, ht, hout⟩ := h
  exact ⟨t, [o], ht, hout, rfl⟩

/-- R13, R209: one output an event, from every state of the invariant. -/
theorem State.Inv.exec_completes (h : s.Inv) (i : Instr) :
    ∃ t os, exec i s = .next t ∧ t.out = s.out ++ os ∧ os.length = eventCount i := by
  cases i with
  | reset => exact (completesWith_execReset s).oneOutput
  | rx b =>
    obtain ⟨t, ht⟩ := h.execRx_completes b
    obtain ⟨o, ho⟩ := execRx_out ht
    exact ⟨t, [o], ht, ho, rfl⟩
  | wr r v => exact (completesWith_execWr r v s).oneOutput
  | rd r => exact (completesWith_execRd r s).oneOutput
  | cmdNop | cmdSyncClr | cmdFrmAck | cmdDiagClr | cmdFlagClr | cmdMbEncode | cmdMbArm | cmdMbAbort =>
    exact (completesWith_command (by decide) s).oneOutput
  | tframe20 p c | tframe28 p c => exact h.telemetryBytes_completes _ p c
  | mbreqReadA reg n crc | mbreqReadB reg n crc | mbreqWrite reg n crc =>
    exact h.feedBytes_completes (requestBytes _ _ reg n crc)

/-- R46, R71: no instruction writes the parameters or the rest of the run. -/
theorem exec_keeps_cfg_input {i : Instr} {t : State} (h : exec i s = .next t) : t.cfg = s.cfg ∧ t.input = s.input := by
  obtain ⟨bs, hbs⟩ | he := exec_effect h
  · refine feedBytes_keeps (fun t => t.cfg = s.cfg ∧ t.input = s.input) (fun b u v hu hv => ?_) bs ⟨rfl, rfl⟩ hbs
    obtain ⟨-, hv⟩ | ⟨-, hv⟩ := onlyOneUnitChanged hv <;> (rw [hv]; exact hu)
  · cases he <;> exact ⟨rfl, rfl⟩

end

/-- Settles O43: the invariant leaves no byte without behaviour, and no other event can stop. -/
theorem everyInstructionCompletes : Obligations.EveryInstructionCompletes := by
  unfold Obligations.EveryInstructionCompletes
  intro i s h
  obtain ⟨t, os, ht, hout, hlen⟩ := h.exec_completes i
  obtain ⟨hcfg, hinput⟩ := exec_keeps_cfg_input ht
  exact ⟨t, ht, inv_exec h ht, hcfg, hinput, os, hout, hlen⟩

end Sys2Proof.Machine
end

section
/-! SUPPORT. What an accepted host write makes of a state (R22, R201): the register takes the low bits, every other one stays as
it was. -/

namespace Sys2Proof.Machine

/-- R201, R22: the register `g` takes the low bits of `v`, as many as it has, and TXLEN a value up to 8; one that the host cannot
write stays as it is. -/
def State.store (s : State) (g : HostReg) (v : Half) : State :=
  { s with
    rxsel := if g = .ctrl then v.getLsbD 0 else s.rxsel
    mbFunc := if g = .mbFunc then lo8 v else s.mbFunc
    mbReg := if g = .mbReg then v else s.mbReg
    mbVal := if g = .mbVal then v else s.mbVal
    mbExpLen := if g = .mbExpLen then v.extractLsb' 0 9 else s.mbExpLen
    mbVmode := if g = .mbVmode then VMode.ofBit (v.getLsbD 0) else s.mbVmode
    txLen := if g = .txLen then Fin.ofNat 9 v.toNat else s.txLen
    txbuf := match g with
      | .txbuf i => s.txbuf.write i (lo8 v)
      | _ => s.txbuf }

/-- R22: the bits of a 16-bit value that a register the host writes keeps, TXLEN aside, which is compared (R201). -/
def HostReg.writeMask : HostReg → Half
  | .ctrl | .mbVmode => 0x0001
  | .mbExpLen => 0x01FF
  | .mbFunc | .txbuf _ => 0x00FF
  | _ => 0xFFFF

/-- R43: the registers the host writes whether or not an exchange is outstanding. -/
def HostReg.unlocked : HostReg → Bool
  | .ctrl | .mbFunc | .mbReg | .mbVal => true
  | _ => false

/-- R201, R43: a write to the request slot is accepted while no exchange is outstanding, TXLEN's only up to 8. -/
theorem execWr_slot {s : State} {v : Half} {g : HostReg} (hg : g.inSlot = true) (hin : g.inRange = true)
    (free : s.mbOut = false) (hlen : g = .txLen → v.toNat ≤ 8) :
    execWr g.number v s = .next ((s.store g v).emit .none) := by
  have hr := regAt_number hin
  cases g with
  | mbExpLen | mbVmode | txbuf => simp only [execWr, hr, unlessArmed_free _ free]; rfl
  | txLen =>
    have h9 : v.toNat < 9 := Nat.lt_succ_of_le (hlen rfl)
    have hmod : (⟨v.toNat, h9⟩ : Fin 9) = Fin.ofNat 9 v.toNat := Fin.ext (Nat.mod_eq_of_lt h9).symm
    simp only [execWr, hr, unlessArmed_free _ free, writeTxLen, dif_pos h9, hmod]
    rfl
  | _ => cases hg

section
variable (s : State) (v : Half)

/-- R201, R43: a write to a register without a lock is accepted in every state. -/
theorem execWr_unlocked {g : HostReg} (hg : g.unlocked = true) :
    execWr g.number v s = .next ((s.store g v).emit .none) := by
  cases g with
  | ctrl | mbFunc | mbReg | mbVal => rfl
  | _ => cases hg

/-- R201: a write shows in its own register only. -/
theorem readReg_store_of_ne {g g' : HostReg} (hne : g ≠ g') : readReg (s.store g v) g' = readReg s g' := by
  cases g' with
  | ctrl | mbFunc | mbReg | mbVal | mbExpLen | mbVmode | txLen => simp only [readReg, State.store, if_neg hne]
  | txbuf j =>
    cases g with
    | txbuf i =>
      have hij : j ≠ i := fun h => hne (h ▸ rfl)
      simp only [readReg, State.store, Memory.read_write, if_neg hij]
    | _ => rfl
  | _ => rfl

/-- R201: a write leaves every other register, the flags and the run as they were. -/
theorem effect_store (g : HostReg) : Effect s ((s.store g v).emit .none) [g.number] s.flags [.none] := by
  refine ⟨regs_same_of fun g' _ _ hrs => ?_, rfl, rfl, rfl, rfl⟩
  have hne : g ≠ g' := fun h => hrs (List.mem_singleton.mpr (h ▸ rfl))
  exact readReg_store_of_ne s v hne

/-- R22: the low `k` bits of a value, zero-extended. -/
theorem setWidth_low (k : Nat) : (v.extractLsb' 0 k).setWidth 16 = v &&& BitVec.ofNat 16 (2 ^ k - 1) := by
  refine BitVec.eq_of_getLsbD_eq fun i hi => ?_
  rw [BitVec.getLsbD_setWidth, BitVec.getLsbD_extractLsb', BitVec.getLsbD_and, BitVec.getLsbD_ofNat,
    Nat.testBit_two_pow_sub_one]
  simp [hi, Bool.and_comm]

theorem code_ofBit (b : Bool) : (VMode.ofBit b).code = BitVec.ofBool b := by cases b <;> rfl

theorem ofBool_lsb : BitVec.ofBool (v.getLsbD 0) = v.extractLsb' 0 1 := by
  ext i hi
  obtain rfl := Nat.lt_one_iff.mp hi
  simp

/-- R22: a register that keeps the low bits reads as them. -/
theorem readReg_store {g : HostReg} (hg : g.unlocked = true ∨ g.inSlot = true) (hlen : g ≠ .txLen) :
    readReg (s.store g v) g = v &&& g.writeMask := by
  cases g with
  | ctrl => exact (congrArg (BitVec.setWidth 16) (ofBool_lsb v)).trans (setWidth_low v 1)
  | mbFunc => exact setWidth_low v 8
  | mbReg | mbVal => exact BitVec.and_allOnes.symm
  | mbExpLen => exact setWidth_low v 9
  | mbVmode => exact (congrArg (BitVec.setWidth 16) ((code_ofBit _).trans (ofBool_lsb v))).trans (setWidth_low v 1)
  | txbuf i =>
    rw [readReg, State.store, Memory.read_write, if_pos rfl]
    exact setWidth_low v 8
  | txLen => exact absurd rfl hlen
  | _ => simp [HostReg.unlocked, HostReg.inSlot] at hg

end

end Sys2Proof.Machine
end

section
/-! SUPPORT. The numbers of the register map (R40): those of the buffers, those that name no register, what they read as (R202) and
which writes to them are refused (R204). -/

namespace Sys2Proof.Machine

section
variable {i : Nat}

theorem number_txbuf_toNat (hi : i < 8) : (HostReg.txbuf i).number.toNat = 0x020 + i := by
  rw [HostReg.number, BitVec.toNat_ofNat]; omega

theorem number_frmData_toNat (hi : i < 26) : (HostReg.frmData i).number.toNat = 0x040 + i := by
  rw [HostReg.number, BitVec.toNat_ofNat]; omega

theorem number_rxbuf_toNat (hi : i < 260) : (HostReg.rxbuf i).number.toNat = 0x100 + i := by
  rw [HostReg.number, BitVec.toNat_ofNat]; omega

end

/-- R40: outside the rows of the register map, and at CMD, there is no register but CMD. -/
theorem eq_cmd_of_regAt {r : RegNum} {g : HostReg} (hg : regAt r = some g)
    (h : r = 0x001 ∨ (0x00C ≤ r ∧ r ≤ 0x00F) ∨ (0x018 ≤ r ∧ r ≤ 0x01F) ∨ (0x028 ≤ r ∧ r ≤ 0x03F) ∨
      (0x05A ≤ r ∧ r ≤ 0x0FF) ∨ 0x204 ≤ r) : g = .cmd := by
  obtain ⟨rfl, hin⟩ := regAt_some hg
  cases g with
  | cmd => rfl
  | txbuf i =>
    have hi : i < 8 := of_decide_eq_true hin
    have hn := number_txbuf_toNat hi
    bv_omega
  | frmData i =>
    have hi : i < 26 := of_decide_eq_true hin
    have hn := number_frmData_toNat hi
    bv_omega
  | rxbuf i =>
    have hi : i < 260 := of_decide_eq_true hin
    have hn := number_rxbuf_toNat hi
    bv_omega
  | _ => exact absurd h (by decide)

/-- R202, R25: CMD and a number that names no register read 0. -/
theorem hostRead_eq_zero (s : State) {r : RegNum} (h : ∀ g, regAt r = some g → g = .cmd) : hostRead s r = 0 := by
  unfold hostRead
  cases hr : regAt r with
  | none => rfl
  | some g =>
    obtain rfl := h g hr
    rfl

/-- R40, R202: a number reads as the register it names. -/
theorem hostRead_of_toNat (s : State) {r : RegNum} {g : HostReg} (hin : g.inRange = true) (hr : r.toNat = g.number.toNat) :
    hostRead s r = readReg s g :=
  BitVec.toNat_inj.mp hr ▸ hostRead_number s hin

theorem zext16_toNat (b : Byte) : (zext16 b).toNat = b.toNat := BitVec.toNat_setWidth_of_le (by decide)

/-- R34: STATUS is the sum of its flags. -/
theorem statusWord_toNat (s : State) :
    (statusWord s).toNat = s.frmValid.toNat + 2 * s.frmOvr.toNat + 4 * s.mbOut.toNat + 8 * s.mbDone.toNat +
      16 * s.mbValid.toNat + 32 * s.encErr.toNat + 64 * s.cfgErr.toNat := by
  have hfrmValid := s.frmValid.toNat_le
  have hfrmOvr := s.frmOvr.toNat_le
  have hmbOut := s.mbOut.toNat_le
  have hmbDone := s.mbDone.toNat_le
  have hmbValid := s.mbValid.toNat_le
  have hencErr := s.encErr.toNat_le
  have hcfgErr := s.cfgErr.toNat_le
  rw [statusWord, BitVec.toNat_ofNat]
  omega

/-- R204 (1), (2): a write to an unmapped number is refused. -/
theorem execWr_unmapped {r : RegNum} (v : Half) (s : State) (h : regAt r = none) : execWr r v s = refuse s := by
  simp only [execWr, h]

/-- R204 (1), (2): a write to a read-only register is refused. -/
theorem execWr_readOnly {g : HostReg} (v : Half) (s : State) (hin : g.inRange = true) (hcmd : g ≠ .cmd)
    (hun : g.unlocked = false) (hslot : g.inSlot = false) : execWr g.number v s = refuse s := by
  have hr := regAt_number hin
  cases g with
  | cmd => exact absurd rfl hcmd
  | ctrl | mbFunc | mbReg | mbVal => cases hun
  | mbExpLen | mbVmode | txLen | txbuf => cases hslot
  | _ => simp only [execWr, hr]

/-- R204 (3): TXLEN takes no value above 8. -/
theorem execWr_txLen_over {v : Half} (s : State) (h : 8 < v.toNat) : execWr 0x017 v s = refuse s := by
  have hr : regAt 0x017 = some .txLen := rfl
  have h9 : ¬ v.toNat < 9 := by omega
  cases ho : s.mbOut with
  | true => simp only [execWr, hr, unlessArmed_out _ ho]
  | false => simp only [execWr, hr, unlessArmed_free _ ho, writeTxLen, dif_neg h9]

end Sys2Proof.Machine
end

section
/-! SUPPORT. The writes that store, whole (R201), and what the commands without a test leave unchanged (R151, R152, R184, R206 to
R208). -/

namespace Sys2Proof.Machine

/-- R201: the write of `v` to the number `r` is accepted: `r` then reads as `w`, and nothing else changed. -/
def Stores (s : State) (v : Half) (r : RegNum) (w : Half) : Prop :=
  ∃ t, exec (.wr r v) s = .next t ∧ SamePay s t ∧ Effect s t [r] s.flags [.none] ∧ hostRead t r = w

section
variable {s : State} {v : Half} {g : HostReg}

theorem stores_of_accepted (hin : g.inRange = true) (hacc : execWr g.number v s = .next ((s.store g v).emit .none)) :
    Stores s v g.number (readReg (s.store g v) g) :=
  ⟨_, hacc, fun _ => rfl, effect_store s v g,
    (hostRead_appendOut (s.store g v) [.none] g.number).trans (hostRead_number (s.store g v) hin)⟩

theorem stores_unlocked (hin : g.inRange = true) (hg : g.unlocked = true) :
    Stores s v g.number (v &&& g.writeMask) := by
  rw [← readReg_store s v (.inl hg) fun h => by subst h; cases hg]
  exact stores_of_accepted hin (execWr_unlocked s v hg)

theorem stores_slot (free : s.mbOut = false) (hin : g.inRange = true) (hg : g.inSlot = true)
    (hlen : g ≠ .txLen) : Stores s v g.number (v &&& g.writeMask) := by
  rw [← readReg_store s v (.inr hg) hlen]
  exact stores_of_accepted hin (execWr_slot hg hin free fun h => absurd h hlen)

theorem stores_txLen (free : s.mbOut = false) (h8 : v.toNat ≤ 8) : Stores s v 0x017 v := by
  have hread : readReg (s.store .txLen v) .txLen = v := by
    refine BitVec.eq_of_toNat_eq (?_ : (BitVec.ofNat 16 (v.toNat % 9)).toNat = v.toNat)
    rw [BitVec.toNat_ofNat]
    omega
  have hstores := stores_of_accepted (g := .txLen) rfl (execWr_slot rfl rfl free fun _ => h8)
  rwa [hread] at hstores

end

/-- R34: where only flags of STATUS move, every register reads as before. -/
theorem effect_flags (s : State) (f : Flags) :
    Effect s ({ s with
      frmValid := f.frmValid, frmOvr := f.frmOvr, mbOut := f.mbOut, mbDone := f.mbDone, mbValid := f.mbValid
      encErr := f.encErr, cfgErr := f.cfgErr }.emit .none) [] f [.none] := by
  refine ⟨regs_same_of fun g _ hstatus _ => ?_, rfl, rfl, rfl, rfl⟩
  cases g with
  | status => exact absurd rfl hstatus
  | _ => rfl

/-- R207: DIAG_CLR touches the two diagnostics. -/
theorem effect_diagClr (s : State) :
    Effect s ({ s with discCnt := 0, discCause := .none }.emit .none) discardRegs s.flags [.none] := by
  refine ⟨regs_same_of fun g _ _ hrs => ?_, rfl, rfl, rfl, rfl⟩
  cases g with
  | discCnt | discCause => exact absurd (by decide) hrs
  | _ => rfl

/-- R151: SYNC_CLR touches the position. -/
theorem effect_syncClr (s : State) : Effect s (s.cfdResync.emit .none) positionRegs s.flags [.none] :=
  effect_position s [.none] .seekHeader0 0 0 0 0 s.pay (.inl (by decide)) (.inl (by decide)) (.inl (by decide))

end Sys2Proof.Machine
end

section
/-! PROOFS. Host access (R201 to R205): what a write stores, which writes are refused, what a read outputs, and the commands. -/

namespace Sys2Proof.Machine

/-- Settles O32: each number names a register that takes the write, unlocked or in the free request slot. -/
theorem hostWriteStores : Obligations.HostWriteStores := by
  unfold Obligations.HostWriteStores
  refine fun s v => ⟨fun p hp => ?_, fun free => ⟨fun p hp => ?_, stores_txLen free⟩⟩
  · simp only [List.mem_cons, List.not_mem_nil, or_false] at hp
    obtain rfl | rfl | rfl | rfl := hp
    · exact stores_unlocked (g := .ctrl) rfl rfl
    · exact stores_unlocked (g := .mbFunc) rfl rfl
    · exact stores_unlocked (g := .mbReg) rfl rfl
    · exact stores_unlocked (g := .mbVal) rfl rfl
  · simp only [List.mem_append, List.mem_cons, List.not_mem_nil, or_false, txbufRegs, List.mem_map, List.mem_range] at hp
    obtain (rfl | rfl) | ⟨-, ⟨i, hi, rfl⟩, rfl⟩ := hp
    · exact stores_slot (g := .mbExpLen) free rfl rfl nofun
    · exact stores_slot (g := .mbVmode) free rfl rfl nofun
    · exact stores_slot (g := .txbuf i) free (decide_eq_true hi) rfl nofun

/-- Settles O33: a number of the statement is unmapped, read-only, or TXLEN's with a value too large, or it is locked. -/
theorem hostWriteRefused : Obligations.HostWriteRefused := by
  unfold Obligations.HostWriteRefused
  intro s r v h
  refine refused_of_eq (show execWr r v s = refuse s from ?_)
  cases hr : regAt r with
  | none => exact execWr_unmapped v s hr
  | some g =>
    obtain ⟨rfl, hin⟩ := regAt_some hr
    cases g with
    | ctrl | cmd | mbFunc | mbReg | mbVal => simp [HostReg.number] at h
    | mbExpLen | mbVmode =>
      have ho : s.mbOut = true := by simpa [HostReg.number] using h
      exact execWr_locked v hr rfl ho
    | txLen =>
      have hv : 8 < v.toNat ∨ s.mbOut = true := by simpa [HostReg.number] using h
      exact hv.elim (execWr_txLen_over s) (execWr_locked v hr rfl)
    | txbuf i =>
      have hi : i < 8 := of_decide_eq_true hin
      have hn := number_txbuf_toNat hi
      have ho : s.mbOut = true := by
        by_contra ho
        simp only [ho, false_and, or_false] at h
        bv_omega
      exact execWr_locked v hr rfl ho
    | _ => exact execWr_readOnly v s hin nofun rfl rfl

/-- R81, R202: the event word of a read. -/
theorem decode_readWord (cfg : Config) (r : RegNum) :
    decode cfg (.word (BitVec.ofNat 32 (0x30000000 + r.toNat * 65536))) = .ok (.rd r) := by
  have hword : BitVec.ofNat 32 (0x30000000 + r.toNat * 65536) = eventWord 3 r 0 := by
    refine BitVec.eq_of_toNat_eq ?_
    rw [BitVec.toNat_ofNat, eventWord_toNat]
    show _ = 3 * 2 ^ 28 + r.toNat * 2 ^ 16 + 0
    have := r.isLt
    omega
  rw [hword, decode, decodeWord_formatR, if_pos rfl]

/-- Settles O34: each number reads as the register it names, and `RD` only outputs. -/
theorem hostReadOutputs : Obligations.HostReadOutputs := by
  unfold Obligations.HostReadOutputs
  refine ⟨decode_readWord, fun s r => ⟨_, hostRead s r, rfl, fun _ => rfl, effect_emit s _, ?_⟩⟩
  refine ⟨?ctrl, ?status, ?mbFail, ?cfdSt, ?cfdIdx, ?cfdSum, ?cfdLen, ?cfdCkh, ?discCnt, ?discCause, ?frmLen, ?mbFunc,
    ?mbReg, ?mbVal, ?mbExpLen, ?mbVmode, ?mbIdx, ?mbCrc, ?txLen, fun i hi hr => ?txbuf, fun i hi hr => ?frmData,
    fun i hi hr => ?rxbuf, fun h => hostRead_eq_zero s fun g hg => eq_cmd_of_regAt hg h⟩
  case txbuf =>
    rw [hostRead_of_toNat (g := .txbuf i) s (decide_eq_true hi) (hr.trans (number_txbuf_toNat hi).symm)]
    exact zext16_toNat _
  case frmData =>
    rw [hostRead_of_toNat (g := .frmData i) s (decide_eq_true hi) (hr.trans (number_frmData_toNat hi).symm)]
    exact zext16_toNat _
  case rxbuf =>
    rw [hostRead_of_toNat (g := .rxbuf i) s (decide_eq_true hi) (hr.trans (number_rxbuf_toNat hi).symm)]
    exact zext16_toNat _
  all_goals rintro rfl
  case cfdSum | cfdLen | discCnt | frmLen | mbReg | mbVal | mbCrc => rfl
  case mbFail => exact BitVec.toNat_setWidth_of_le (b := s.mbFail) (by decide)
  case cfdIdx => exact BitVec.toNat_setWidth_of_le (b := s.cfdIdx) (by decide)
  case mbExpLen => exact BitVec.toNat_setWidth_of_le (b := s.mbExpLen) (by decide)
  case mbIdx => exact BitVec.toNat_setWidth_of_le (b := s.mbIdx) (by decide)
  case cfdCkh | mbFunc => exact zext16_toNat _
  case ctrl => exact (BitVec.toNat_setWidth_of_le (b := .ofBool s.rxsel) (by decide)).trans (BitVec.toNat_ofBool _)
  case status => exact statusWord_toNat s
  case cfdSt => show (s.cfdSt.code.setWidth 16).toNat = _; cases s.cfdSt <;> rfl
  case discCause => show (s.discCause.code.setWidth 16).toNat = _; cases s.discCause <;> rfl
  case mbVmode => show (s.mbVmode.code.setWidth 16).toNat = _; cases s.mbVmode <;> rfl
  case txLen => exact Nat.mod_eq_of_lt (by omega)

/-- Settles O23: the dispatch is by `commandOf`, which names a command for the eight opcodes only. -/
theorem commandDispatch : Obligations.CommandDispatch := by
  unfold Obligations.CommandDispatch
  intro s
  refine ⟨rfl, rfl, rfl, rfl, rfl, rfl, rfl, rfl, rfl, fun v hv => refused_of_eq ?_⟩
  have hnone : commandOf v = none := (commandOf_eq_none_iff v).mpr (by simpa [commandOpcodes] using hv)
  show execCommand v s = refuse s
  rw [execCommand_eq, hnone]
  rfl

/-- Settles O22: each command has no test, and writes flags, the diagnostics or the position only. -/
theorem housekeepingCommands : Obligations.HousekeepingCommands := by
  unfold Obligations.HousekeepingCommands
  refine ⟨fun _ => ⟨rfl, rfl, rfl, rfl, rfl, rfl⟩, fun s => ⟨?_, ?_, ?_, ?_, ?_, ?_⟩⟩
  · exact ⟨_, rfl, fun _ => rfl, effect_emit s .none⟩
  · exact ⟨_, rfl, fun _ => rfl, effect_syncClr s, rfl, rfl, rfl, rfl, rfl⟩
  · exact ⟨_, rfl, fun _ => rfl, effect_flags s { s.flags with frmValid := false, frmOvr := false }⟩
  · exact ⟨_, rfl, fun _ => rfl, effect_diagClr s, rfl, rfl⟩
  · exact ⟨_, rfl, fun _ => rfl, effect_flags s { s.flags with encErr := false, cfgErr := false }⟩
  · exact ⟨_, rfl, fun _ => rfl, effect_flags s { s.flags with mbOut := false }⟩

end Sys2Proof.Machine
end

section
/-! SUPPORT. Reads of the host over bytes that have arrived (R221, R222): which run of bytes ends a blocking read, polls with
nothing to pump, and FRM_VALID along a run of bytes. -/

namespace Sys2Proof.Machine

/-- R221: a run of bytes whose last output is the first one waited for ends the pumping, the bytes behind it untouched. -/
theorem pumpUntil_last {stop : Output → Bool} {bs : List Byte} {s t : State} {os : List Output} {o : Output}
    (h : feedBytes bs s = .next t) (hout : t.out = s.out ++ (os ++ [o])) (hs : ∀ o ∈ os, stop o = false)
    (ho : stop o = true) (rest : List Byte) : pumpUntil stop (bs ++ rest) s = some (t, some (o, rest)) := by
  obtain rfl | ⟨p, b, rfl⟩ := List.eq_nil_or_concat' bs
  · cases h
    simp at hout
  · rw [feedBytes_append] at h
    obtain ⟨u, hu, hb⟩ := andThen_eq_next h
    rw [feedBytes_singleton] at hb
    obtain ⟨os', hos'⟩ := feedBytes_out p hu
    obtain ⟨o', ho'⟩ := execRx_out hb
    have heq : os' ++ [o'] = os ++ [o] := by
      rw [ho', hos', List.append_assoc] at hout
      exact List.append_cancel_left hout
    obtain ⟨rfl, rfl⟩ := List.append_singleton_inj.mp heq
    rw [List.append_assoc, List.singleton_append]
    exact pumpUntil_stops p b rest hu hos' hs hb ho' ho

/-- R233: polls with nothing to pump time the wait out at the first one at or past the budget, and only there. -/
theorem awaitOutput_emptyPolls (stop : Output → Bool) (start budget : Nat) (times : List Nat) (s : State) :
    awaitOutput stop start budget (times.map fun now => (now, [])) s =
      match times.dropWhile fun now => decide (now - start < budget) with
      | [] => .waiting s
      | now :: later => .timeout s now (later.map fun now => (now, [])) := by
  induction times with
  | nil => rfl
  | cons now times ih =>
    rw [List.map_cons, awaitOutput_empty]
    by_cases hlt : now - start < budget
    · rw [if_neg (by omega), ih, List.dropWhile_cons, if_pos (decide_eq_true hlt)]
    · rw [if_pos (by omega), List.dropWhile_cons, if_neg fun h => hlt (of_decide_eq_true h)]

/-- R34, R149: a byte to CFD raises FRM_VALID exactly where it outputs a frame. -/
theorem cfdByte_frmValid (b : Byte) (s : State) :
    ∃ o, (cfdByte b s).out = s.out ++ [o] ∧ (cfdByte b s).frmValid = (s.frmValid || o.isFrame) := by
  have silent {t : State} (hout : t.out = s.out ++ [.none]) (hvalid : t.frmValid = s.frmValid) :
      ∃ o, t.out = s.out ++ [o] ∧ t.frmValid = (s.frmValid || o.isFrame) :=
    ⟨.none, hout, hvalid.trans (Bool.or_false _).symm⟩
  unfold cfdByte
  split
  · unfold rxSeekHeader0; split <;> exact silent rfl rfl
  · unfold rxSeekHeader1; split <;> exact silent rfl rfl
  · exact silent rfl rfl
  · dsimp only [rxReadLenLo]; split <;> exact silent rfl rfl
  · exact silent rfl rfl
  · exact silent rfl rfl
  · unfold rxReadChecksumLo
    split
    · exact ⟨.frame _ _, rfl, (Bool.or_true _).symm⟩
    · exact silent rfl rfl

/-- R34: CFD is selected, and FRM_VALID was raised since `s` exactly where a frame was output. -/
def FrmValidFollows (s t : State) : Prop :=
  t.rxsel = false ∧ ∃ os, t.out = s.out ++ os ∧ t.frmValid = (s.frmValid || os.any Output.isFrame)

theorem FrmValidFollows.execRx {s t u : State} {b : Byte} (h : FrmValidFollows s t) (hu : execRx b t = .next u) :
    FrmValidFollows s u := by
  obtain ⟨hsel, os, hout, hvalid⟩ := h
  obtain ⟨-, -, rfl⟩ | ⟨hmod, -⟩ | ⟨hmod, -⟩ | ⟨hmod, -⟩ := execRx_cases hu
  · obtain ⟨o, hout', hvalid'⟩ := cfdByte_frmValid b t
    refine ⟨by rw [onlyCfdChanged_cfdByte b t]; exact hsel, os ++ [o], by rw [hout', hout, List.append_assoc], ?_⟩
    rw [hvalid', hvalid, List.any_append, List.any_cons, List.any_nil, Bool.or_false, Bool.or_assoc]
  all_goals exact absurd (hsel.symm.trans hmod) nofun

/-- R34, R222: with CFD selected, a run of bytes raises FRM_VALID exactly where it outputs a frame. -/
theorem feedBytes_frmValid {bs : List Byte} {s t : State} (hsel : s.rxsel = false) (h : feedBytes bs s = .next t) :
    t.frmValid = (s.frmValid || (outputsSince s t).any Output.isFrame) := by
  have hstart : FrmValidFollows s s := ⟨hsel, [], (List.append_nil _).symm, (Bool.or_false _).symm⟩
  obtain ⟨-, os, hout, hvalid⟩ := feedBytes_keeps (FrmValidFollows s) (fun _ _ _ => .execRx) bs hstart h
  rw [outputsSince_append hout, hvalid]

end Sys2Proof.Machine
end

section
/-! PROOFS. The host's reads, its warm-up, its averaging and its states (R221 to R226, R229). -/

namespace Sys2Proof.Machine

/-- Settles O44: a blocking read is the wait for a successful output. -/
theorem emptyBlockingReadTimesOutAtBudget : Obligations.EmptyBlockingReadTimesOutAtBudget := by
  unfold Obligations.EmptyBlockingReadTimesOutAtBudget
  intro start budget times s
  exact awaitOutput_emptyPolls Output.isSuccess start budget times s

/-- Settles O45: the invariant lets every byte through, and FRM_VALID rises with the frame output. -/
theorem nonBlockingReadReportsFrmValid : Obligations.NonBlockingReadReportsFrmValid := by
  unfold Obligations.NonBlockingReadReportsFrmValid
  intro s available h hsel hvalid
  obtain ⟨t, os, ht, -, -⟩ := h.feedBytes_completes available
  have hrose : t.frmValid = (outputsSince s t).any Output.isFrame := by
    rw [feedBytes_frmValid hsel ht, hvalid, Bool.false_or]
  exact ⟨t, by rw [nonBlockingRead, ht, nextOf_next, Option.map_some, hrose]⟩

/-- R224: readiness is latched by the first time at or past the interval's end. -/
theorem foldl_ask_ready (w : WarmUp) (times : List Nat) :
    (times.foldl WarmUp.ask w).ready = true ↔ w.ready = true ∨ ∃ now ∈ times, w.initTime + w.interval ≤ now := by
  induction times generalizing w with
  | nil => simp
  | cons now times ih =>
    rw [List.foldl_cons, ih]
    simp only [WarmUp.ask, Bool.or_eq_true, decide_eq_true_eq, or_assoc, List.exists_mem_cons_iff]

/-- Settles O46: nothing is latched before the first time asked. -/
theorem warmUpLatches : Obligations.WarmUpLatches := by
  unfold Obligations.WarmUpLatches
  intro w times hready
  rw [foldl_ask_ready, hready, or_iff_right nofun]

/-- R225, R235: the accumulator counts and sums the samples inside the bounds. -/
theorem foldl_take (lo hi : Nat) (samples : List Nat) (a : SampleAccumulator) :
    samples.foldl (SampleAccumulator.take lo hi) a =
      { count := a.count + samples.countP fun x => decide (lo ≤ x) && decide (x < hi)
        sum := a.sum + (samples.map fun x => if lo ≤ x ∧ x < hi then x else 0).sum } := by
  induction samples generalizing a with
  | nil => rfl
  | cons x samples ih =>
    rw [List.foldl_cons, ih, List.countP_cons, List.map_cons, List.sum_cons, SampleAccumulator.take]
    by_cases hx : lo ≤ x ∧ x < hi
    · simp [hx, Nat.add_assoc, Nat.add_comm 1]
    · rw [← Bool.decide_and]; simp [hx]

/-- Settles O47: the mean is missing exactly where the count is 0, and the count is that of the samples inside the bounds. -/
theorem averagingTakesAcceptedSamples : Obligations.AveragingTakesAcceptedSamples := by
  unfold Obligations.AveragingTakesAcceptedSamples
  intro lo hi samples
  rw [averageSamples, foldl_take, SampleAccumulator.mean]
  simp only [Nat.zero_add]
  split_ifs with hnone
  · refine ⟨iff_of_true rfl fun x hx => ?_, nofun⟩
    have hout := List.countP_eq_zero.mp hnone x hx
    simp only [Bool.and_eq_true, decide_eq_true_eq] at hout
    omega
  · refine ⟨iff_of_false nofun fun hall => hnone (List.countP_eq_zero.mpr fun x hx => ?_), fun sum count h => ?_⟩
    · have hout := hall x hx
      simp only [Bool.and_eq_true, decide_eq_true_eq]
      omega
    · cases h
      exact ⟨rfl, Nat.one_le_iff_ne_zero.mpr hnone, rfl⟩

/-- R221: the two outputs that end a blocking read with success. -/
theorem Output.isSuccess_iff (o : Output) :
    o.isSuccess = true ↔ (∃ len data, o = .frame len data) ∨ ∃ fail, o = .mbresult true fail := by
  cases o <;> simp [Output.isSuccess]

/-- R229: an event leaves the session where it is, or moves it along one of the five arrows. -/
theorem SessionState.next_cases (st : SessionState) (e : SessionEvent) :
    st.next e = st ∨ (st, st.next e) ∈ [(.uninitialized, .initializing), (.initializing, .ready), (.initializing, .failed),
      (.ready, .operating), (.operating, .closed)] := by
  unfold SessionState.next
  split
  case h_4 o =>
    cases o.isSuccess
    · exact .inl rfl
    · exact .inr (by decide)
  case h_7 => exact .inl rfl
  all_goals exact .inr (by decide)

/-- Settles O54: the arrows, and the events that leave INITIALIZING. -/
theorem sessionMovesAreThoseOfR229 : Obligations.SessionMovesAreThoseOfR229 := by
  unfold Obligations.SessionMovesAreThoseOfR229
  refine fun st e => ⟨(st.next_cases e).resolve_left, ?_⟩
  cases e with
  | output o =>
    simp only [SessionState.next, SessionEvent.output.injEq, ← Output.isSuccess_iff, exists_eq_left']
    cases o.isSuccess <;> simp
  | _ => simp [SessionState.next]

end Sys2Proof.Machine
end

section
/-! SUPPORT. Waits of the host that bytes or polls end (R221, R225, R229): a frame or a response that has arrived, empty polls,
and what an averaging call and the opening of a session make of them. -/

namespace Sys2Proof.Machine

section
variable {s t : State} {bs : List Byte} {o : Output} {k : Nat}

/-- R221: bytes of which only the last one has an output end the wait at their poll, and the bytes behind them stay. -/
theorem awaitOutput_run {stop : Output → Bool} (h : feedBytes bs s = .next t)
    (hout : t.out = s.out ++ (List.replicate k .none ++ [o])) (hnone : stop .none = false) (ho : stop o = true)
    (start budget now : Nat) (rest : List Byte) (later : List Poll) :
    awaitOutput stop start budget ((now, bs ++ rest) :: later) s = .success o t now ((now, rest) :: later) :=
  awaitOutput_success
    (pumpUntil_last h hout (fun o' ho' => by rw [List.eq_of_mem_replicate ho', hnone]) ho rest) start budget now later

end

/-- R233: empty polls of which one is at or past the budget time the wait out. -/
theorem awaitOutput_timesOut (stop : Output → Bool) {start budget : Nat} {times : List Nat}
    (h : ∃ time ∈ times, start + budget ≤ time) (s : State) :
    ∃ now left, awaitOutput stop start budget (times.map fun time => (time, [])) s = .timeout s now left := by
  rw [awaitOutput_emptyPolls]
  cases hlate : times.dropWhile fun now => decide (now - start < budget) with
  | nil =>
    obtain ⟨time, hmem, hle⟩ := h
    have hearly := of_decide_eq_true (List.dropWhile_eq_nil_iff.mp hlate time hmem)
    omega
  | cons now later => exact ⟨now, _, rfl⟩

/-- R154, R221: a frame with its right checksum, in the seek state, ends a blocking read. -/
theorem blockingRead_validFrame {s : State} {lenLo : Byte} {p : List Byte} (hsel : s.rxsel = false) (hseek : s.Seeking)
    (hlen : AdmissibleLen lenLo) (hp : p.length + 2 = lenLo.toNat) (start budget now : Nat) (rest : List Byte)
    (later : List Poll) :
    blockingRead start budget
        ((now, telemetryBytes lenLo p (sum16 ([HDR0, HDR1, 0x00, lenLo] ++ p)) ++ rest) :: later) s =
      .success (.frame (cat16 0x00 lenLo) p) (s.afterValidFrame lenLo p) now ((now, rest) :: later) :=
  awaitOutput_run (feedBytes_validFrame hsel hseek hlen hp) (effect_afterValidFrame hseek hp).out rfl rfl start budget now
    rest later

/-- R99, R158: the `k`-th word of a payload, big-endian. -/
def wordAt (p : List Byte) (k : Nat) : Nat := (p.getD (2 * k) 0).toNat * 256 + (p.getD (2 * k + 1) 0).toNat

theorem payloadWord_afterValidFrame (s : State) {lenLo : Byte} {p : List Byte} (hp : p.length + 2 = lenLo.toNat) {k : Nat}
    (hk : k < 13) : ((s.afterValidFrame lenLo p).payloadWord k).toNat = wordAt p k := by
  rw [State.payloadWord, cat16_toNat, frmData_afterValidFrame s hp (by omega), frmData_afterValidFrame s hp (by omega)]
  rfl

/-- R225, R226: the end of an averaging call that has read all its samples. -/
def averageEnd (mean : Option (Nat × Nat)) (s : State) : AverageEnd :=
  match mean with
  | some (sum, count) => .mean sum count s
  | none => .noValidSamples s

theorem sampleReads_zero (q : Sampling) (sampleOf : State → Nat) (start : Nat) (polls : List Poll) (s : State)
    (a : SampleAccumulator) : sampleReads q sampleOf 0 start polls s a = averageEnd a.mean s := by
  rw [sampleReads]
  cases a.mean <;> rfl

/-- R225: a read that succeeds yields its sample, and the next one follows after the delay. -/
theorem sampleReads_success {q : Sampling} {start now : Nat} {polls left : List Poll} {s t : State} {o : Output}
    (h : blockingRead start q.budget polls s = .success o t now left) (sampleOf : State → Nat) (n : Nat)
    (a : SampleAccumulator) :
    sampleReads q sampleOf (n + 1) start polls s a =
      sampleReads q sampleOf n (now + q.delay) (idleUntil (now + q.delay) left) t (a.take q.lo q.hi (sampleOf t)) := by
  simp only [sampleReads, h]

/-- What has arrived already is available after a delay too. -/
theorem idleUntil_arrived {now time : Nat} (h : now ≤ time) (bs : List Byte) :
    idleUntil time [(now, bs)] = [(time, bs)] := by
  simp [idleUntil, h]

/-- R225: frames that have arrived are read one a read, in order. -/
theorem sampleReads_validFrames (q : Sampling) {k : Nat} (hk : k < 9) (payloads : List (List Byte)) {s : State}
    (hsel : s.rxsel = false) (hseek : s.Seeking) (hp : ∀ p ∈ payloads, p.length = 18) (start : Nat)
    (a : SampleAccumulator) :
    ∃ t, t.Seeking ∧
      sampleReads q (fun t => (t.payloadWord k).toNat) payloads.length start
          [(start, payloads.flatMap fun p => telemetryBytes 0x14 p (sum16 ([HDR0, HDR1, 0x00, 0x14] ++ p)))] s a =
        averageEnd ((payloads.map (wordAt · k)).foldl (SampleAccumulator.take q.lo q.hi) a).mean t := by
  induction payloads generalizing s start a with
  | nil => exact ⟨s, hseek, sampleReads_zero ..⟩
  | cons p payloads ih =>
    obtain ⟨hp, hps⟩ := List.forall_mem_cons.mp hp
    have hlen : p.length + 2 = (0x14 : Byte).toNat := by rw [hp]; rfl
    have hread := blockingRead_validFrame hsel hseek (.inl rfl) hlen start q.budget start
      (payloads.flatMap fun p => telemetryBytes 0x14 p (sum16 ([HDR0, HDR1, 0x00, 0x14] ++ p))) []
    obtain ⟨t, ht, hend⟩ := ih (s := s.afterValidFrame 0x14 p) hsel (seeking_afterValidFrame s 0x14 p) hps
      (start + q.delay) (a.take q.lo q.hi (wordAt p k))
    refine ⟨t, ht, ?_⟩
    rw [List.length_cons, List.flatMap_cons, sampleReads_success hread, idleUntil_arrived (Nat.le_add_right _ _),
      payloadWord_afterValidFrame s hlen (by omega), hend, List.map_cons, List.foldl_cons]

section
variable {probe : List Instr} {start budget now : Nat} {polls left : List Poll} {s t u : State} {o : Output}

/-- R229: the session is opened by the first output that ends the wait. -/
theorem openSession_output (hprobe : execAll (.reset :: probe) s = .next t)
    (hread : blockingRead start budget polls t = .success o u now left) :
    openSession true probe start budget polls s = some (SessionState.initializing.next (.output o), u) := by
  simp only [openSession, hprobe, hread, nextOf_next, Option.bind_some]
  rfl

/-- R229: it fails where the wait times out. -/
theorem openSession_timeout (hprobe : execAll (.reset :: probe) s = .next t)
    (hread : blockingRead start budget polls t = .timeout u now left) :
    openSession true probe start budget polls s = some (.failed, u) := by
  simp only [openSession, hprobe, hread, nextOf_next, Option.bind_some]
  rfl

end

/-- R281: the events of the probe find the block as RESET leaves it. -/
theorem execAll_reset (probe : List Instr) (s : State) :
    execAll (.reset :: probe) s = execAll probe (s.afterReset.emit .none) := rfl

/-- R182: the outputs of an exchange judged valid. -/
theorem judged_out_valid {s : State} {bs : List Byte} (h : (s.judged bs).mbFail = 0) :
    (s.judged bs).out = s.out ++ (List.replicate (bs.length - 1) .none ++ [.mbresult true 0]) := by
  rw [(effect_judged s bs).out, h]
  rfl

section
variable {s : State} {f : Byte} {n : Half} {data : List Byte}

/-- R185 (a), R228: the response to a read, at the collector that waits for it, is judged, and is valid. -/
theorem feedBytes_readResponse (reg : Half) (os : List Output) (hf : f = s.cfg.rfA ∨ f = s.cfg.rfB)
    (hn : 5 + 2 * n.toNat ≤ 260) (hdata : data.length = 2 * n.toNat) :
    let u := (s.awaitingRead f reg n).appendOut os
    let bs := readResponse s.cfg.devAddr f n data
    feedBytes bs u = .next (u.judged bs) ∧ (u.judged bs).mbFail = 0 := by
  have h : ((s.awaitingRead f reg n).appendOut os).Listening := { listening_awaitingRead s f reg hn with }
  have hexpected : ((s.awaitingRead f reg n).appendOut os).expectedLen = 5 + 2 * n.toNat :=
    expectedLen_awaitingRead s f reg hn
  exact ⟨feedBytes_judged h rfl ((length_readResponse _ hdata).trans hexpected.symm),
    judged_readResponse h rfl rfl hf hn hdata hexpected⟩

end

end Sys2Proof.Machine
end

section
/-! PROOFS. An averaging call over frames, and the opening of a session (R225, R229, R281). -/

namespace Sys2Proof.Machine

/-- Settles O53: the frames are read one a read, and their words accumulated. -/
theorem averagedReadTakesOneFrameARead : Obligations.AveragedReadTakesOneFrameARead := by
  unfold Obligations.AveragedReadTakesOneFrameARead
  intro s q payloads k start hsel hseek hp hk
  obtain ⟨t, ht, hend⟩ := sampleReads_validFrames q hk payloads hsel hseek hp start { count := 0, sum := 0 }
  exact ⟨t, ht, hend⟩

/-- Settles O55: RESET leaves CFD in the seek state and no exchange outstanding; then a frame, a response or nothing comes. -/
theorem sessionOpensOnTheFirstValidOutput : Obligations.SessionOpensOnTheFirstValidOutput := by
  unfold Obligations.SessionOpensOnTheFirstValidOutput
  intro s start budget now later
  let r := s.afterReset.emit .none
  have hreset : execAll [.reset] s = .next r := execAll_reset [] s
  have hseek : r.Seeking := ⟨rfl, rfl, rfl, rfl, rfl⟩
  refine ⟨fun p hp => ?_, fun f reg n data head hf h1 hn hdata hhead => ?_, fun times hlate => ?_, fun _ _ => rfl⟩
  · have hlen : p.length + 2 = (0x14 : Byte).toNat := by rw [hp]; rfl
    have hread := blockingRead_validFrame (s := r) rfl hseek (.inl rfl) hlen start budget now [] later
    rw [List.append_nil] at hread
    exact ⟨_, openSession_output hreset hread, rfl, rfl, fun i hi => frmData_afterValidFrame r hlen (by omega)⟩
  · subst hhead
    have hprobe := (execAll_reset (readExchange (zext16 f) reg n) s).trans (execAll_readExchange reg rfl hf h1 hn)
    obtain ⟨hfeed, hfail⟩ := feedBytes_readResponse (s := r) reg (List.replicate 8 .none) hf hn hdata
    have hread := awaitOutput_run (stop := Output.isSuccess) hfeed (judged_out_valid hfail) rfl rfl start budget now []
      later
    rw [List.append_nil] at hread
    refine ⟨_, openSession_output hprobe hread, decide_eq_true hfail, fun i hi => ?_⟩
    rw [judged_rxbuf_read rfl (by rw [length_readResponse _ hdata]; omega)]
    exact getD_readResponse _ hi
  · obtain ⟨now, left, hread⟩ := awaitOutput_timesOut Output.isSuccess hlate r
    exact ⟨r, openSession_timeout hreset hread, hseek⟩

end Sys2Proof.Machine
end

section
/-! SUPPORT. The host's events before a request is sent (R105, R106, R228 steps 2 and 3): the request of each kind of exchange,
the collector waiting for an echo, and the check of ENC_ERR. -/

namespace Sys2Proof.Machine

/-- R176, R38: the collector waits for the echo of TXBUF. -/
def State.expectingEcho (s : State) : State := { s with mbVmode := .echo }.armed

/-- R106: `EXPECT ECHO` of a buffer that is not empty. -/
theorem execAll_expectEcho {s : State} (free : s.mbOut = false) (hlen : 1 ≤ s.txLen.val) :
    execAll Pseudo.expectEcho.expand s = .next (s.expectingEcho.appendOut (List.replicate 2 .none)) := by
  let u := { s with mbVmode := .echo }.emit .none
  have hmode : exec (.wr 0x014 1) s = .next u := execWr_vmode 1 free
  have hlegal : u.expectedLenLegal = true :=
    (expectedLenLegal_iff u).mpr (.inr ⟨rfl, hlen, Nat.le_of_lt_succ s.txLen.isLt⟩)
  have harm : execCmdMbArm u = .next (u.armed.emit .none) := execCmdMbArm_accepted free hlegal
  rw [Pseudo.expand, execAll, hmode, andThen_next]
  show andThen (execCmdMbArm u) (execAll []) = _
  rw [harm]
  exact congrArg Host.Outcome.next (State.appendOut_appendOut s.expectingEcho [.none] [.none])

/-- R228 steps 2 and 3: MFC is selected and an encodable request built. -/
theorem execAll_selReq {s : State} {f : Byte} {v : Half} (reg : Half) (free : s.mbOut = false)
    (ok : encodable s.cfg f v = true) :
    execAll (Pseudo.selModbus.expand ++ (Pseudo.req (zext16 f) reg v).expand) s =
      .next (({ s with rxsel := true }.requested f reg v).appendOut (List.replicate 5 .none)) := by
  let t := { s with rxsel := true }.requested f reg v
  have hreq : execAll (Pseudo.req (zext16 f) reg v).expand ({ s with rxsel := true }.emit .none) =
    .next ((t.appendOut [.none]).appendOut (List.replicate 4 .none)) := execAll_req reg free ok
  rw [execAll_append, execAll_selModbus, andThen_next, hreq, State.appendOut_appendOut]
  rfl

/-- R201, R37: MB_FUNC takes the low byte of the function code. -/
theorem execAll_req_lo8 (f reg v : Half) (s : State) :
    execAll (Pseudo.req f reg v).expand s = execAll (Pseudo.req (zext16 (lo8 f)) reg v).expand s := by
  have hfunc (w : Half) : exec (.wr 0x010 w) s = .next ({ s with mbFunc := lo8 w }.emit .none) := rfl
  simp only [Pseudo.expand, execAll, hfunc, lo8_zext16]

/-- R171, R172: an unencodable request is in the operand registers, and ENC_ERR is set. -/
def State.readRejected (s : State) (f reg n : Half) : State :=
  { s with rxsel := true, mbFunc := lo8 f, mbReg := reg, mbVal := n, encErr := true }

/-- R228 steps 2 and 3: MFC is selected and an unencodable request rejected. -/
theorem execAll_selReq_rejected {s : State} {f n : Half} (reg : Half) (free : s.mbOut = false)
    (bad : ¬ encodable s.cfg (lo8 f) n = true) :
    execAll (Pseudo.selModbus.expand ++ (Pseudo.req f reg n).expand) s =
      .next ((s.readRejected f reg n).appendOut (List.replicate 5 .none)) := by
  let t : State := { s with rxsel := true, mbFunc := lo8 f, mbReg := reg, mbVal := n }
  let u := (t.appendOut [.none]).appendOut (List.replicate 3 .none)
  have hset : execAll [.wr 0x010 (zext16 (lo8 f)), .wr 0x011 reg, .wr 0x012 n] ({ s with rxsel := true }.emit .none) =
    .next u := execAll_operands _ (lo8 f) reg n
  have hencode : execCmdMbEncode u = .next ({ u with encErr := true }.emit .none) := execCmdMbEncode_rejected free bad
  have hsplit : (Pseudo.req (zext16 (lo8 f)) reg n).expand =
    [.wr 0x010 (zext16 (lo8 f)), .wr 0x011 reg, .wr 0x012 n] ++ [.cmdMbEncode] := rfl
  rw [execAll_append, execAll_selModbus, andThen_next, execAll_req_lo8, hsplit, execAll_append, hset, andThen_next]
  show andThen (execCmdMbEncode u) (execAll []) = _
  rw [hencode]
  show Host.Outcome.next ((((s.readRejected f reg n).appendOut [.none]).appendOut (List.replicate 3 .none)).appendOut
    [.none]) = _
  rw [State.appendOut_appendOut, State.appendOut_appendOut]
  rfl

/-- R201: TXBUF takes a write while no exchange is outstanding. -/
theorem execWr_txbuf {s : State} {i : Nat} (v : Half) (free : s.mbOut = false) (hi : i < 8) :
    execWr (BitVec.ofNat 12 (0x020 + i)) v s = .next ({ s with txbuf := s.txbuf.write i (lo8 v) }.emit .none) := by
  have hr : regAt (BitVec.ofNat 12 (0x020 + i)) = some (.txbuf i) := regAt_number (g := .txbuf i) (decide_eq_true hi)
  simp only [execWr, hr, unlessArmed_free _ free]

/-- R105: a run of writes to TXBUF. -/
theorem execAll_writeTxFrom (bs : List Byte) {i : Nat} {s : State} (free : s.mbOut = false) (hi : i + bs.length ≤ 8) :
    execAll (writeTxFrom i bs) s =
      .next ({ s with txbuf := s.txbuf.writeBytes i bs }.appendOut (List.replicate bs.length .none)) := by
  induction bs generalizing i s with
  | nil => exact congrArg Host.Outcome.next (State.appendOut_nil s).symm
  | cons b bs ih =>
    rw [List.length_cons] at hi
    let u := { s with txbuf := s.txbuf.write i b }.emit .none
    have hwrite : exec (.wr (BitVec.ofNat 12 (0x020 + i)) (zext16 b)) s = .next u := by
      rw [exec, execWr_txbuf (zext16 b) free (by omega), lo8_zext16]
    have hrest := ih (i := i + 1) (s := u) free (by omega)
    rw [writeTxFrom, execAll, hwrite, andThen_next, hrest]
    exact congrArg Host.Outcome.next (State.appendOut_appendOut
      { s with txbuf := s.txbuf.writeBytes i (b :: bs) } [.none] (List.replicate bs.length .none))

/-- R106, R41: a buffer of up to 8 bytes is the request. -/
def State.loaded (s : State) (bs : List Byte) : State :=
  { s with txbuf := s.txbuf.writeBytes 0 bs, txLen := Fin.ofNat 9 bs.length }

theorem loaded_txLen (s : State) {bs : List Byte} (h : bs.length ≤ 8) : (s.loaded bs).txLen.val = bs.length :=
  Nat.mod_eq_of_lt (Nat.lt_succ_of_le h)

theorem requestOut_loaded (s : State) {bs : List Byte} (h : bs.length ≤ 8) : (s.loaded bs).requestOut = bs := by
  rw [State.requestOut, loaded_txLen s h]
  exact Memory.readBytes_writeBytes s.txbuf bs

/-- R106: `LOADTX` of a buffer of up to 8 bytes. -/
theorem execAll_loadTx {s : State} {bs : List Byte} (free : s.mbOut = false) (h : bs.length ≤ 8) :
    execAll (Pseudo.loadTx bs).expand s = .next ((s.loaded bs).appendOut (List.replicate (bs.length + 1) .none)) := by
  let u := { s with txbuf := s.txbuf.writeBytes 0 bs }.appendOut (List.replicate bs.length .none)
  have hbytes : execAll (writeTxFrom 0 bs) s = .next u := execAll_writeTxFrom bs free (by omega)
  have hval : (BitVec.ofNat 16 bs.length).toNat = bs.length := by rw [BitVec.toNat_ofNat]; omega
  have hlen : exec (.wr 0x017 (BitVec.ofNat 16 bs.length)) u =
      .next ({ u with txLen := Fin.ofNat 9 bs.length }.emit .none) := by
    refine (execWr_slot (g := .txLen) (s := u) rfl rfl free fun _ => by rw [hval]; exact h).trans ?_
    exact congrArg (fun n => Host.Outcome.next ({ u with txLen := Fin.ofNat 9 n }.emit .none)) hval
  rw [Pseudo.expand, execAll_append, hbytes, andThen_next, execAll, hlen, List.replicate_succ']
  exact congrArg Host.Outcome.next (State.appendOut_appendOut (s.loaded bs) (List.replicate bs.length .none) [.none])

/-- R34: bit 5 of STATUS is ENC_ERR. -/
theorem statusWord_encErr (s : State) : (statusWord s).getLsbD 5 = s.encErr := by
  unfold statusWord
  generalize s.frmValid = a, s.frmOvr = b, s.mbOut = c, s.mbDone = d, s.mbValid = e, s.encErr = f, s.cfgErr = g
  revert a b c d e f g
  decide

/-- R228 step 3: after a `REQ` the host reads ENC_ERR from STATUS. -/
theorem encodeRejected_read (f reg n : Half) (s : State) (os : List Output) :
    ∃ os', (Exchange.read f reg n).encodeRejected (s.appendOut os) = some (s.appendOut os', s.encErr) := by
  simp only [Exchange.encodeRejected, readRegs_eq, Option.map_some, State.appendOut_appendOut]
  exact ⟨_, congrArg (fun e => some (_, e)) (statusWord_encErr (s.appendOut os))⟩

/-- R228 step 3: the check of a write is that of a read. -/
theorem encodeRejected_write (reg v : Half) (s : State) (os : List Output) :
    ∃ os', (Exchange.write reg v).encodeRejected (s.appendOut os) = some (s.appendOut os', s.encErr) :=
  encodeRejected_read 0 reg v s os

end Sys2Proof.Machine
end

section
/-! SUPPORT. Steps 2 to 4 of a round trip (R228), once for each kind of exchange: the state before the response, and the bytes
that are handed to the transport. -/

namespace Sys2Proof.Machine

section
variable {x : Exchange} {s t u : State}

/-- R228 steps 2 to 4 where the encoder does not reject; the outputs on the way are left open. -/
theorem prepare_eq (hrequest : ∃ os, execAll (Pseudo.selModbus.expand ++ x.request s.cfg) s = .next (t.appendOut os))
    (hcheck : ∀ os, ∃ os', x.encodeRejected (t.appendOut os) = some (t.appendOut os', false))
    (hexpect : ∀ os, ∃ os', execAll x.expect (t.appendOut os) = .next (u.appendOut os')) :
    ∃ os, x.prepare s = some (u.appendOut os, some u.requestOut) := by
  obtain ⟨osReq, hrequest⟩ := hrequest
  obtain ⟨osCheck, hcheck⟩ := hcheck osReq
  obtain ⟨osExpect, hexpect⟩ := hexpect osCheck
  obtain ⟨osRead, hread⟩ := readRequest_eq (u.appendOut osExpect)
  refine ⟨osExpect ++ osRead, ?_⟩
  simp only [Exchange.prepare, hrequest, hcheck, hexpect, hread, nextOf_next, Option.bind_some, Option.map_some,
    State.appendOut_appendOut]
  rfl

/-- R228 steps 2 to 4 where the encoder rejects. -/
theorem prepare_rejected
    (hrequest : ∃ os, execAll (Pseudo.selModbus.expand ++ x.request s.cfg) s = .next (t.appendOut os))
    (hcheck : ∀ os, ∃ os', x.encodeRejected (t.appendOut os) = some (t.appendOut os', true)) :
    ∃ os, x.prepare s = some (t.appendOut os, none) := by
  obtain ⟨osReq, hrequest⟩ := hrequest
  obtain ⟨osCheck, hcheck⟩ := hcheck osReq
  exact ⟨osCheck, by simp only [Exchange.prepare, hrequest, hcheck, nextOf_next, Option.bind_some, if_true]⟩

end

section
variable {s : State}

/-- R106: `EXPECT CRC`, whatever was output before. -/
theorem expectCrc_appendOut {n : Half} (free : s.mbOut = false) (hlo : 5 ≤ n.toNat) (hhi : n.toNat ≤ 260)
    (os : List Output) :
    ∃ os', execAll (Pseudo.expectCrc n).expand (s.appendOut os) = .next ((s.expectingCrc n).appendOut os') :=
  ⟨_, (execAll_expectCrc (s := s.appendOut os) free hlo hhi).trans
    (congrArg Host.Outcome.next (State.appendOut_appendOut (s.expectingCrc n) os _))⟩

/-- R106: `EXPECT ECHO`, whatever was output before. -/
theorem expectEcho_appendOut (free : s.mbOut = false) (hlen : 1 ≤ s.txLen.val) (os : List Output) :
    ∃ os', execAll Pseudo.expectEcho.expand (s.appendOut os) = .next (s.expectingEcho.appendOut os') :=
  ⟨_, (execAll_expectEcho (s := s.appendOut os) free hlen).trans
    (congrArg Host.Outcome.next (State.appendOut_appendOut s.expectingEcho os _))⟩

/-- R228 for a read. -/
theorem prepare_read {f : Byte} {n : Half} (reg : Half) (free : s.mbOut = false) (hf : f = s.cfg.rfA ∨ f = s.cfg.rfB)
    (h1 : 1 ≤ n.toNat) (hn : 5 + 2 * n.toNat ≤ 260) :
    ∃ os, (Exchange.read (zext16 f) reg n).prepare s =
      some ((s.awaitingRead f reg n).appendOut os, some (s.awaitingRead f reg n).requestOut) := by
  have hlen := responseLen_toNat hn
  have ok := (encodable_iff s.cfg f n).mpr (.inl ⟨hf, h1⟩)
  exact prepare_eq ⟨_, execAll_selReq reg free ok⟩ (encodeRejected_read _ _ _ _)
    (expectCrc_appendOut free (by omega) (by omega))

/-- R228 steps 2 and 3: the request of a single write is in TXBUF, and the collector waits for its echo. -/
def State.awaitingWrite (s : State) (reg v : Half) : State :=
  ({ s with rxsel := true }.requested s.cfg.wf reg v).expectingEcho

/-- R228 for a single write. -/
theorem prepare_write (reg v : Half) (free : s.mbOut = false) :
    ∃ os, (Exchange.write reg v).prepare s =
      some ((s.awaitingWrite reg v).appendOut os, some (s.awaitingWrite reg v).requestOut) := by
  have ok := (encodable_iff s.cfg s.cfg.wf v).mpr (.inr rfl)
  exact prepare_eq ⟨_, execAll_selReq reg free ok⟩ (encodeRejected_write _ _ _)
    (expectEcho_appendOut free (show 1 ≤ 8 by decide))

/-- R170, R230: the bytes the host hands to the transport are the request of the write. -/
theorem requestOut_awaitingWrite (s : State) (reg v : Half) :
    (s.awaitingWrite reg v).requestOut = requestBytes s.cfg.devAddr s.cfg.wf reg v
      (crc16 [s.cfg.devAddr, s.cfg.wf, hi8 reg, lo8 reg, hi8 v, lo8 v]) :=
  encoded_txbuf { s with rxsel := true, mbFunc := s.cfg.wf, mbReg := reg, mbVal := v }

/-- R228 for a read that is not encodable. -/
theorem prepare_readRejected {f n : Half} (reg : Half) (free : s.mbOut = false)
    (bad : ¬ encodable s.cfg (lo8 f) n = true) :
    ∃ os, (Exchange.read f reg n).prepare s = some ((s.readRejected f reg n).appendOut os, none) :=
  prepare_rejected ⟨_, execAll_selReq_rejected reg free bad⟩ (encodeRejected_read f reg n (s.readRejected f reg n))

/-- R228, R98: an immediate buffer is in TXBUF, with MFC selected. -/
def State.holding (s : State) (bytes : List Byte) : State := { s with rxsel := true }.loaded bytes

theorem execAll_selLoadTx {bytes : List Byte} (free : s.mbOut = false) (h : bytes.length ≤ 8) :
    execAll (Pseudo.selModbus.expand ++ (Pseudo.loadTx bytes).expand) s =
      .next ((s.holding bytes).appendOut (List.replicate (bytes.length + 2) .none)) := by
  have hload : execAll (Pseudo.loadTx bytes).expand ({ s with rxsel := true }.emit .none) =
    .next (((s.holding bytes).appendOut [.none]).appendOut (List.replicate (bytes.length + 1) .none)) := execAll_loadTx free h
  rw [execAll_append, execAll_selModbus, andThen_next, hload, State.appendOut_appendOut]
  rfl

/-- R228 for an immediate buffer whose echo is not checked. -/
theorem prepare_unchecked {bytes : List Byte} (free : s.mbOut = false) (h : bytes.length ≤ 8) :
    ∃ os, (Exchange.immediate bytes false).prepare s =
      some ((s.holding bytes).appendOut os, some (s.holding bytes).requestOut) :=
  prepare_eq ⟨_, execAll_selLoadTx free h⟩ (fun os => ⟨os, rfl⟩) fun os => ⟨os, rfl⟩

/-- R228 for an immediate buffer whose echo is checked. -/
theorem prepare_checked {bytes : List Byte} (free : s.mbOut = false) (h1 : 1 ≤ bytes.length) (h : bytes.length ≤ 8) :
    ∃ os, (Exchange.immediate bytes true).prepare s =
      some ((s.holding bytes).expectingEcho.appendOut os, some (s.holding bytes).expectingEcho.requestOut) := by
  have hlen : 1 ≤ (s.holding bytes).txLen.val := by rwa [State.holding, loaded_txLen _ h]
  exact prepare_eq ⟨_, execAll_selLoadTx free h⟩ (fun os => ⟨os, rfl⟩) (expectEcho_appendOut free hlen)

end

end Sys2Proof.Machine
end

section
/-! SUPPORT. The end of a round trip (R228 steps 5 and 6): what a judged exchange, silence and a rejected request make of it, and
the polls that a flush leaves. -/

namespace Sys2Proof.Machine

/-- R228 step 6: the data is what stands between the first three bytes of the response and its CRC. -/
theorem readData_response {t : State} {bs : List Byte} (hlen : t.expectedLen = bs.length) (hcap : bs.length ≤ 260)
    (hread : ∀ i < bs.length, t.rxbuf.read i = bs.getD i 0) :
    ∃ os, readData t = some (t.appendOut os, (bs.drop 3).take (bs.length - 5)) := by
  obtain ⟨os, h⟩ := readData_eq (s := t) (by rw [hlen]; exact hcap)
  refine ⟨os, h.trans (congrArg (fun data => some (_, data)) (List.ext_getElem ?_ fun i hi _ => ?_))⟩
  · simp only [List.length_map, List.length_range, List.length_take, List.length_drop]
    omega
  · rw [List.length_map, List.length_range] at hi
    rw [List.getElem_map, List.getElem_range, hread _ (by omega), List.getElem_take, List.getElem_drop,
      List.getD_eq_getElem]

/-- R228: an exchange that waits for an answer, up to the wait. -/
theorem roundTrip_awaits {x : Exchange} {s t : State} {bytes : List Byte} (hprepare : x.prepare s = some (t, some bytes))
    (hx : ∀ bytes, x ≠ .immediate bytes false) (start budget : Nat) (port : Transport) :
    roundTrip x start budget port s =
      concludeExchange start budget ((port.flushInput start).writeBytes bytes) t := by
  simp only [roundTrip, hprepare]
  cases x with
  | read | write => rfl
  | immediate bytes check =>
    cases check with
    | false => exact absurd rfl (hx bytes)
    | true => rfl

/-- R228 step 3: an immediate buffer whose echo is not checked is written, and that is all. -/
theorem roundTrip_unchecked {s t : State} {buffer bytes : List Byte}
    (hprepare : (Exchange.immediate buffer false).prepare s = some (t, some bytes)) (start budget : Nat) (port : Transport) :
    roundTrip (.immediate buffer false) start budget port s =
      .sent t { polls := (port.flushInput start).polls, written := port.written ++ bytes } := by
  simp only [roundTrip, hprepare]
  rfl

/-- R228 step 3: where the encoder rejects the request nothing is written. -/
theorem roundTrip_rejected {x : Exchange} {s t : State} (hprepare : x.prepare s = some (t, none)) (start budget : Nat)
    (port : Transport) : roundTrip x start budget port s = .rejected t (port.flushInput start) := by
  simp only [roundTrip, hprepare]

section
variable {x : Exchange} {start budget now : Nat} {before : List Nat} {later : List Poll} {port : Transport}
  {s t u : State} {bytes : List Byte} (hprepare : x.prepare s = some (t, some bytes))
  (hx : ∀ bytes, x ≠ .immediate bytes false) (hbefore : ∀ time ∈ before, time - start < budget)
include hprepare hx hbefore

/-- R228 steps 5 and 6: the bytes that complete the exchange as valid end it with its data, and those behind them stay. -/
theorem roundTrip_valid {bs rest : List Byte} {k : Nat}
    (hpolls : (port.flushInput start).polls = before.map (fun time => (time, [])) ++ (now, bs ++ rest) :: later)
    (h : feedBytes bs t = .next u) (hout : u.out = t.out ++ (List.replicate k .none ++ [.mbresult true 0]))
    (hlen : u.expectedLen = bs.length) (hcap : bs.length ≤ 260)
    (hread : ∀ i < bs.length, u.rxbuf.read i = bs.getD i 0) :
    ∃ os, roundTrip x start budget port s =
      .valid ((bs.drop 3).take (bs.length - 5)) (u.appendOut os)
        { polls := (now, rest) :: later, written := port.written ++ bytes } := by
  obtain ⟨os, hdata⟩ := readData_response hlen hcap hread
  refine ⟨os, ?_⟩
  rw [roundTrip_awaits hprepare hx, concludeExchange, Transport.writeBytes_polls, hpolls,
    awaitOutput_silent _ _ _ _ _ _ hbefore, awaitOutput_run h hout rfl rfl]
  simp only [Output.isSuccess, if_true, hdata, Transport.writeBytes_written, Transport.flushInput_written]

/-- R228 step 5, R184: a poll at or past the budget with nothing judged aborts the exchange. -/
theorem roundTrip_timeout
    (hpolls : (port.flushInput start).polls = before.map (fun time => (time, [])) ++ (now, []) :: later)
    (hnow : start + budget ≤ now) :
    roundTrip x start budget port s =
      .timeout ({ t with mbOut := false }.emit .none) { polls := later, written := port.written ++ bytes } := by
  rw [roundTrip_awaits hprepare hx, concludeExchange, Transport.writeBytes_polls, hpolls,
    awaitOutput_silent _ _ _ _ _ _ hbefore, awaitOutput_empty, if_pos (by omega)]
  rfl

end

/-- R93, R230: the request as it is written, its CRC behind what is written before. -/
theorem append_requestBytes (written : List Byte) (addr f : Byte) (reg v c : Half) :
    written ++ requestBytes addr f reg v c =
      written ++ [addr, f, hi8 reg, lo8 reg, hi8 v, lo8 v] ++ [lo8 c, hi8 c] :=
  (List.append_assoc written [addr, f, hi8 reg, lo8 reg, hi8 v, lo8 v] [lo8 c, hi8 c]).symm

/-- R96: the data of a response, between its first three bytes and its CRC. -/
theorem data_readResponse (addr f : Byte) (n : Half) (data : List Byte) :
    ((readResponse addr f n data).drop 3).take ((readResponse addr f n data).length - 5) = data := by
  simp [readResponse]

/-- R181, R228: the echo of an immediate buffer, at the collector that waits for it, is judged, and is valid. -/
theorem feedBytes_heldEcho (s : State) {bytes : List Byte} (h1 : 1 ≤ bytes.length) (h8 : bytes.length ≤ 8)
    (os : List Output) :
    let u := (s.holding bytes).expectingEcho.appendOut os
    feedBytes bytes u = .next (u.judged bytes) ∧ (u.judged bytes).mbFail = 0 ∧ u.expectedLen = bytes.length := by
  let u := (s.holding bytes).expectingEcho.appendOut os
  have hlen : u.txLen.val = bytes.length := loaded_txLen { s with rxsel := true } h8
  have h : u.Listening := ⟨rfl, rfl, rfl, (expectedLenLegal_iff u).mpr (.inr ⟨rfl, by omega, by omega⟩)⟩
  have htx : u.txbuf.readBytes bytes.length = bytes := Memory.readBytes_writeBytes s.txbuf bytes
  exact ⟨feedBytes_judged h rfl hlen.symm, verdict_received_echo rfl rfl hlen.symm htx _, hlen⟩

/-- What is empty, or arrives after a flush, is as before. -/
theorem Transport.flushInput_kept {p : Transport} {now : Nat} (h : ∀ q ∈ p.polls, q.2 = [] ∨ now < q.1) :
    (p.flushInput now).polls = p.polls := by
  refine (List.map_congr_left fun q hq => ?_).trans (List.map_id _)
  split_ifs with hle
  · exact Prod.ext rfl ((h q hq).resolve_right (by omega)).symm
  · rfl

end Sys2Proof.Machine
end

section
/-! PROOFS. Round trips (R227, R228): a read answered, an exchange to which nothing answers, an immediate buffer, and a request
that is not encodable. -/

namespace Sys2Proof.Machine

/-- Settles O49: the stale bytes are flushed, and the response is judged and read out. -/
theorem roundTripDeliversTheData : Obligations.RoundTripDeliversTheData := by
  unfold Obligations.RoundTripDeliversTheData
  intro s f reg n data head extra request written start budget now stale later free hf h1 hn hdata hhead hrequest hbudget
    hstale hnow hlater
  subst hhead hrequest
  obtain ⟨os, hprepare⟩ := prepare_read reg free hf h1 hn
  obtain ⟨hfeed, hfail⟩ := feedBytes_readResponse reg os hf hn hdata
  have hlen := length_readResponse (f := f) s.cfg.devAddr hdata
  let port : Transport :=
    { polls := stale ++ (now, readResponse s.cfg.devAddr f n data ++ extra) :: later, written := written }
  have harrives : ∀ q ∈ (now, readResponse s.cfg.devAddr f n data ++ extra) :: later, start < q.1 :=
    List.forall_mem_cons.mpr ⟨hnow, hlater⟩
  have hpolls : (port.flushInput start).polls = (stale.map Prod.fst).map (fun time => (time, [])) ++
      (now, readResponse s.cfg.devAddr f n data ++ extra) :: later := by
    rw [Transport.flushInput_append, Transport.flushInput_stale hstale, Transport.flushInput_later harrives]
  have hbefore : ∀ time ∈ stale.map Prod.fst, time - start < budget := by
    refine List.forall_mem_map.mpr fun q hq => ?_
    have := hstale q hq
    omega
  obtain ⟨os', hend⟩ := roundTrip_valid hprepare (fun _ => nofun) hbefore hpolls hfeed (judged_out_valid hfail)
    ((expectedLen_awaitingRead s f reg hn).trans hlen.symm) (by omega) fun i hi => judged_rxbuf_read rfl hi
  rw [data_readResponse, requestOut_awaitingRead, append_requestBytes] at hend
  exact ⟨_, hend, rfl, rfl, decide_eq_true hfail, hfail, rfl⟩

/-- Settles O50: nothing is pumped, and the abort leaves the collector as arming left it. -/
theorem silentExchangeIsAborted : Obligations.SilentExchangeIsAborted := by
  unfold Obligations.SilentExchangeIsAborted
  intro s x f reg v request written start budget now before later free hx hrequest hbefore hnow hlater
  subst hrequest
  let port : Transport := { polls := before.map (fun time => (time, [])) ++ (now, []) :: later, written := written }
  have hpolls : (port.flushInput start).polls = port.polls := by
    refine Transport.flushInput_kept (List.forall_mem_append.mpr ⟨List.forall_mem_map.mpr fun _ _ => .inl rfl, ?_⟩)
    exact List.forall_mem_cons.mpr ⟨.inl rfl, fun q hq => .inr (hlater q hq)⟩
  obtain ⟨rfl, hf, h1, hn⟩ | ⟨rfl, rfl⟩ := hx
  · obtain ⟨os, hprepare⟩ := prepare_read reg free hf h1 hn
    have hend := roundTrip_timeout hprepare (fun _ => nofun) hbefore hpolls hnow
    rw [requestOut_awaitingRead, append_requestBytes] at hend
    exact ⟨_, hend, rfl, rfl, rfl, fun _ => rfl⟩
  · obtain ⟨os, hprepare⟩ := prepare_write reg v free
    have hend := roundTrip_timeout hprepare (fun _ => nofun) hbefore hpolls hnow
    rw [requestOut_awaitingWrite, append_requestBytes] at hend
    exact ⟨_, hend, rfl, rfl, rfl, fun _ => rfl⟩

/-- Settles O51: the buffer is TXBUF, and its echo passes the collector's one check. -/
theorem immediateBufferExchange : Obligations.ImmediateBufferExchange := by
  unfold Obligations.ImmediateBufferExchange
  intro s bytes written start budget now free h1 h8 hnow
  have hout := requestOut_loaded { s with rxsel := true } h8
  have hpolls : (Transport.flushInput { polls := [(now, bytes)], written := written } start).polls = [(now, bytes)] :=
    Transport.flushInput_later (List.forall_mem_singleton.mpr hnow)
  refine ⟨?_, ?_⟩
  · obtain ⟨os, hprepare⟩ := prepare_unchecked free h8
    have hend := roundTrip_unchecked hprepare start budget { polls := [(now, bytes)], written := written }
    rw [State.holding, hout, hpolls] at hend
    exact ⟨_, hend, free, rfl⟩
  · obtain ⟨os, hprepare⟩ := prepare_checked free h1 h8
    obtain ⟨hfeed, hfail, hlen⟩ := feedBytes_heldEcho s h1 h8 os
    have hout' : (s.holding bytes).expectingEcho.requestOut = bytes := hout
    rw [← List.append_nil bytes] at hpolls
    obtain ⟨os', hend⟩ := roundTrip_valid (budget := budget) (before := []) hprepare (fun _ => nofun) nofun hpolls hfeed
      (judged_out_valid hfail) hlen (by omega) fun i hi => judged_rxbuf_read rfl hi
    rw [hout', List.append_nil] at hend
    exact ⟨_, hend, rfl, decide_eq_true hfail, rfl⟩

/-- Settles O52: the encoder sets ENC_ERR, and the host reads it before it writes anything. -/
theorem rejectedRequestIsNotSent : Obligations.RejectedRequestIsNotSent := by
  unfold Obligations.RejectedRequestIsNotSent
  intro s f reg n start budget port free hbad
  obtain ⟨os, hprepare⟩ := prepare_readRejected reg free fun ok => hbad ((encodable_iff _ _ _).mp ok)
  exact ⟨_, _, roundTrip_rejected hprepare start budget port, rfl, rfl, free, rfl, fun _ => rfl⟩

end Sys2Proof.Machine
end
